-- ==== Sys2Proof/Config.lean ====
section
/-! DEFINITION. Config: what this implementation fixes (00_scope.md R9, R10).

The parameters of R9 are one record, `Params`, which the block of Machine/Parametric.lean takes as an argument; `hardware` is that
record at R9's "value for this hardware", which the words of Word.lean and the state of Machine/State.lean have. The protocol constants of R10 are the source's literals, taken
as normative and not audited against a real transmitter (R8, log 16). -/

namespace Sys2Proof

/-- How the time thresholds are compared (`THRESHOLD_ARITH`, R9, R142, R143). -/
inductive ThresholdArith
  | exact
  | binary64
  deriving DecidableEq, Repr

/-- A time threshold `num / den` seconds, the exact value of a decimal literal (R10). -/
structure Threshold where
  num : Nat
  den : Nat
  deriving DecidableEq, Repr

/-- How the back-dated end of a final bit behaves past the top of the sample range (`ENDPOINT_WRAP`, R9, R177). -/
inductive EndpointWrap
  | exact
  | mod
  deriving DecidableEq, Repr

/-- The width of a register: a number of bits, or `inf` (R9). -/
inductive Width
  | bits (n : Nat)
  | inf
  deriving DecidableEq, Repr

/-- The parameters of the block (R9). -/
structure Params where
  /-- Width of a sample index. -/
  SAMPLE_W : Width
  /-- Width of the sample rate. -/
  RATE_W : Nat
  /-- Width of `bits_consumed`. -/
  BITS_W : Width
  /-- Width of `bytes_consumed`. -/
  BYTES_W : Width
  /-- How the four time thresholds are compared. -/
  THRESHOLD_ARITH : ThresholdArith
  /-- How the back-dated end behaves past the top of the sample range. -/
  ENDPOINT_WRAP : EndpointWrap
  /-- Time from accepting a token to emitting its events; no rule depends on it. -/
  LATENCY : Nat
  deriving DecidableEq, Repr

namespace Config

/-- Width of a sample index (R9): 64 for this hardware. It is the width of `Sample`. -/
@[simp] def SAMPLE_W : Nat := 64

/-- Width of the sample rate (R9): 64 for this hardware. It is the width of `Rate`. -/
@[simp] def RATE_W : Nat := 64

/-- Width of a token's payload, `max(SAMPLE_W, RATE_W)` (R80). -/
@[simp] def PAYLOAD_W : Nat := max SAMPLE_W RATE_W

/-- Width of `bits_consumed` (R9): 16 for this hardware. -/
@[simp] def BITS_W : Nat := 16

/-- Width of `bytes_consumed`, `BITS_W - 3` (R9): 13 for this hardware. -/
@[simp] def BYTES_W : Nat := BITS_W - 3

/-- How thresholds are compared (R9): exactly, for this hardware. -/
@[simp] def THRESHOLD_ARITH : ThresholdArith := .exact

/-- How the back-dated end of a final bit behaves (R9): modulo 2^SAMPLE_W, for this hardware. -/
@[simp] def ENDPOINT_WRAP : EndpointWrap := .mod

/-- Time from accepting a token to emitting its events (R9, R265): any value, and no rule depends on it. Open in the spec, so it
has no body here (log 14). -/
opaque LATENCY : Nat

/-- The parameters at R9's "value for this hardware". -/
def hardware : Params where
  SAMPLE_W := .bits SAMPLE_W
  RATE_W := RATE_W
  BITS_W := .bits BITS_W
  BYTES_W := .bits BYTES_W
  THRESHOLD_ARITH := THRESHOLD_ARITH
  ENDPOINT_WRAP := ENDPOINT_WRAP
  LATENCY := LATENCY

/-- Lower bound of a HEADER period, inclusive: 0.001 s (R10). -/
@[simp] def T_PERIOD_MIN : Threshold := ⟨1, 1000⟩

/-- Upper bound of a HEADER period, inclusive: 0.0012 s (R10). -/
@[simp] def T_PERIOD_MAX : Threshold := ⟨3, 2500⟩

/-- FRAME_END needs a duty time strictly below 0.0009 s (R10). -/
@[simp] def T_FRAME_END_DUTY : Threshold := ⟨9, 10000⟩

/-- A bit is 0 iff its duty time is at or above 0.0006 s (R10). -/
@[simp] def T_BIT0_DUTY : Threshold := ⟨3, 5000⟩

/-- FRAME_END needs `bits_consumed` above this (R10). -/
@[simp] def N_FRAME_END_MIN : Nat := 64

/-- The encrypted-word portion is emitted at this `bits_consumed` (R10). -/
@[simp] def N_ENC : Nat := 32

/-- The serial portion is emitted at this `bits_consumed` (R10). -/
@[simp] def N_SERIAL : Nat := 60

/-- The button portion is emitted at this `bits_consumed` (R10). -/
@[simp] def N_BUTTON : Nat := 64

end Config

end Sys2Proof
end

