-- ==== Sys2Proof/Word.lean ====
section
/-! DEFINITION. Word: the words and the closed enumerations of the block (30_encoding.md R80, R90, R95). -/

namespace Sys2Proof

/-- A sample index: SAMPLE_W bits, unsigned (R9, R82). -/
abbrev Sample := BitVec 64

/-- A sample rate in samples per second: RATE_W bits, unsigned; 0 means not supplied (R21, R83). -/
abbrev Rate := BitVec 64

/-- One word of the input channel: an 8-bit header and PAYLOAD_W bits of payload (R80). -/
abbrev TokenWord := BitVec 72

/-- One word of the output channel: header, span start, span end, value (R90). -/
abbrev EventWord := BitVec 168

/-- The level of the monitored line (R82). -/
inductive Level
  | low
  | high
  deriving DecidableEq, Repr

/-- The polarity option (R22). -/
inductive Polarity
  | activeHigh
  | activeLow
  deriving DecidableEq, Repr

/-- The control sequencer's values (R24). The codes 101, 110 and 111 are reserved and never held; they are represented because
the operation map has a row for them (R88, log 11). -/
inductive Ctl
  | idle
  | waitSync
  | waitMid
  | waitEnd
  | halt
  | reserved5
  | reserved6
  | reserved7
  deriving DecidableEq, Repr

/-- The frame phase (R29). The code 11 is never held and is no value here (log 11). -/
inductive Phase
  | seek
  | reading
  | finishing
  deriving DecidableEq, Repr

/-- The sticky fault status (R26). The code 11 is never held and is no value here (log 11). -/
inductive Err
  | none
  | configError
  | countOverflow
  deriving DecidableEq, Repr

/-- The classifier's result for one period (R42, R89). The code 11 is never produced and is no value here (log 11). -/
inductive Verdict
  | reject
  | header
  | frameEnd
  deriving DecidableEq, Repr

/-- The kinds of input token (R81). -/
inductive TokenKind
  | edge
  | start
  | cfg
  | reserved
  deriving DecidableEq, Repr

/-- The three semantic fields of a frame, in the order of their portion ids (R17, R92). -/
inductive Portion
  | enc
  | serial
  | button
  deriving DecidableEq, Repr

/-- One output event: its channel, its span and its value at the width of R93. There is no META event: the block never emits
one (R96). -/
inductive Event
  /-- The classified bit of one accepted period (R176, R177). -/
  | bit (start stop : Sample) (value : BitVec 1)
  /-- A completed byte (R180). -/
  | byte (start stop : Sample) (value : BitVec 8)
  /-- The same byte on the raw-file channel (R181). -/
  | raw (start stop : Sample) (value : BitVec 8)
  /-- The encrypted-word portion (R183). -/
  | enc (start stop : Sample) (value : BitVec 32)
  /-- The serial portion (R185). -/
  | serial (start stop : Sample) (value : BitVec 28)
  /-- The button portion (R187). -/
  | button (start stop : Sample) (value : BitVec 4)
  deriving DecidableEq, Repr

/-- The kinds of output event. -/
inductive EventKind
  | bit
  | byte
  | raw
  | portion (p : Portion)
  deriving DecidableEq, Repr

/-- The kind of an event. -/
def Event.kind : Event → EventKind
  | .bit .. => .bit
  | .byte .. => .byte
  | .raw .. => .raw
  | .enc .. => .portion .enc
  | .serial .. => .portion .serial
  | .button .. => .portion .button

end Sys2Proof
end

