-- ==== Sys2Proof/Syntax.lean ====
section
/-! DEFINITION. Syntax: one constructor per row of spec/opcode_table.json, with the fields its encoding carries.

Three groups (log 9): the dispatch operations, each one offered token in one control state (R88); the period operations run
inside EDGE.END, whose `ps` and `pm` are the registers p_start and p_mid (R89); and the event emissions (R90 to R93). -/

namespace Sys2Proof

inductive Instr
  -- dispatch operations (R88)
  /-- CFG: latch the sample rate and polarity (R121). -/
  | cfg (pol : Polarity) (rate : Rate)
  /-- START: begin the decoding session (R122); L and payload are ignored (R84). -/
  | start
  /-- EDGE.DROP: an edge offered before START (R123). -/
  | edgeDrop (level : Level) (sample : Sample)
  /-- HOLD: any token offered in HALT (R123). -/
  | hold (tok : TokenWord)
  /-- EDGE.SKIP: an edge of the wrong direction in WAIT_SYNC (R124). -/
  | edgeSkip (level : Level) (sample : Sample)
  /-- EDGE.SYNC: the synchronizing edge (R125). -/
  | edgeSync (level : Level) (sample : Sample)
  /-- EDGE.MID: the mid edge of a period (R126). -/
  | edgeMid (level : Level) (sample : Sample)
  /-- EDGE.END: the end edge of a period (R127). -/
  | edgeEnd (level : Level) (sample : Sample)
  /-- CFG.IGNORED: a CFG in a session; `cc` is ctl[1:0] (R134). -/
  | cfgIgnored (cc : BitVec 2) (pol : Polarity) (rate : Rate)
  /-- START.IGNORED: a START in a session; `cc` is ctl[1:0] (R134). -/
  | startIgnored (cc : BitVec 2)
  /-- RSV: a token of the reserved kind; `cc` is ctl[1:0] (R132). -/
  | rsv (cc : BitVec 2)
  /-- RESERVED.CTL: any token in a reserved control state; `cc` is ctl[1:0] (R88). -/
  | reservedCtl (cc : BitVec 2) (tok : TokenWord)
  -- period operations (R89)
  /-- FINISH_EXIT: the reset of the commit that follows a FRAME_END (R173). -/
  | finishExit
  /-- REJECT: the commit of a rejected period ending at `pe` (R174). -/
  | reject (pe : Sample)
  /-- HEADER: the commit of an in-range period ending at `pe` (R175 to R188). -/
  | header (pe : Sample)
  /-- FRAME_END: the commit of a frame's final period ending at `pe` (R175, R177 to R179). -/
  | frameEnd (pe : Sample)
  /-- VERDICT.RESERVED: the verdict code 11, never produced (R89). -/
  | verdictReserved (pe : Sample)
  -- event emissions (R90 to R93)
  /-- EV.BIT (R176, R177). -/
  | evBit (start stop : Sample) (value : BitVec 1)
  /-- EV.BYTE (R180). -/
  | evByte (start stop : Sample) (value : BitVec 8)
  /-- EV.PORTION.ENC (R183). -/
  | evPortionEnc (start stop : Sample) (value : BitVec 32)
  /-- EV.PORTION.SERIAL (R185). -/
  | evPortionSerial (start stop : Sample) (value : BitVec 28)
  /-- EV.PORTION.BUTTON (R187). -/
  | evPortionButton (start stop : Sample) (value : BitVec 4)
  /-- EV.RAW (R181). -/
  | evRaw (start stop : Sample) (value : BitVec 8)
  /-- EV.META: the reserved channel, never emitted (R96); `value` has no width of its own, so it is the word's 32 bits. -/
  | evMeta (start stop : Sample) (value : BitVec 32)
  deriving DecidableEq, Repr

end Sys2Proof
end

