-- ==== Sys2Proof/WellFormed.lean ====
section
/-! DEFINITION. WellFormed: the operand values that an encoding admits.

Only the rows whose key has the field `cc` restrict an operand: CFG.IGNORED and START.IGNORED stand in WAIT_SYNC, WAIT_MID and
WAIT_END, and RESERVED.CTL in the codes 101 to 111, so `cc` is not 00 (R88). RSV admits every `cc`. -/

namespace Sys2Proof

/-- The instruction has an encoding (R88). -/
def Instr.wf : Instr → Bool
  | .cfgIgnored cc _ _ => cc != 0#2
  | .startIgnored cc => cc != 0#2
  | .reservedCtl cc _ => cc != 0#2
  | .cfg .. | .start | .edgeDrop .. | .hold .. | .edgeSkip .. | .edgeSync .. | .edgeMid .. | .edgeEnd .. | .rsv .. => true
  | .finishExit | .reject .. | .header .. | .frameEnd .. | .verdictReserved .. => true
  | .evBit .. | .evByte .. | .evPortionEnc .. | .evPortionSerial .. | .evPortionButton .. | .evRaw .. | .evMeta .. => true

end Sys2Proof
end

