-- ==== Sys2Proof/Decode.lean ====
section
/-! DEFINITION. Decode: the codes of 30_encoding.md, the decoder, and after it the encoder.

Three encodings, as the opcode table has them (log 9): an offered token in a control state (R80 to R88), a period operation's
code (R89), an event word (R90 to R93). Decoding is total; a pattern with no row is rejected by the name of what is wrong. -/

namespace Sys2Proof

/-! ## Enumeration codes (R22, R81, R82, R89, R91, R92, R95) -/

/-- Code of a line level: 1 for the level after a rising edge (R82). -/
def Level.bit : Level → BitVec 1
  | .low => 0#1
  | .high => 1#1

/-- The level with the given code (R82). -/
def Level.ofBit (b : BitVec 1) : Level := if b = 1#1 then .high else .low

/-- The other level. -/
def Level.other : Level → Level
  | .low => .high
  | .high => .low

/-- Code of a polarity: 0 = active-high, 1 = active-low (R22). -/
def Polarity.bit : Polarity → BitVec 1
  | .activeHigh => 0#1
  | .activeLow => 1#1

/-- The polarity with the given code (R22). -/
def Polarity.ofBit (b : BitVec 1) : Polarity := if b = 1#1 then .activeLow else .activeHigh

/-- `active_level`: 1 when `cfg_pol = 0` and 0 when `cfg_pol = 1` (R23). -/
def Polarity.activeLevel : Polarity → Level
  | .activeHigh => .high
  | .activeLow => .low

/-- Code of a control value (R95). -/
def Ctl.code : Ctl → BitVec 3
  | .idle => 0b000#3
  | .waitSync => 0b001#3
  | .waitMid => 0b010#3
  | .waitEnd => 0b011#3
  | .halt => 0b100#3
  | .reserved5 => 0b101#3
  | .reserved6 => 0b110#3
  | .reserved7 => 0b111#3

/-- The control value with the given code (R95). -/
def Ctl.ofCode (c : BitVec 3) : Ctl :=
  match c.toNat with
  | 0 => .idle
  | 1 => .waitSync
  | 2 => .waitMid
  | 3 => .waitEnd
  | 4 => .halt
  | 5 => .reserved5
  | 6 => .reserved6
  | _ => .reserved7

/-- `ctl[1:0]`, the field `cc` of a dispatch key (R88). -/
def Ctl.cc (c : Ctl) : BitVec 2 := c.code.setWidth 2

/-- The control value `{0, cc}` (R88). -/
def Ctl.session (cc : BitVec 2) : Ctl := Ctl.ofCode (0#1 ++ cc)

/-- The control value `{1, cc}` (R88). -/
def Ctl.upper (cc : BitVec 2) : Ctl := Ctl.ofCode (1#1 ++ cc)

/-- Code of a phase (R95). -/
def Phase.code : Phase → BitVec 2
  | .seek => 0b00#2
  | .reading => 0b01#2
  | .finishing => 0b10#2

/-- Code of a fault status (R95, R221). -/
def Err.code : Err → BitVec 2
  | .none => 0b00#2
  | .configError => 0b01#2
  | .countOverflow => 0b10#2

/-- Code of a verdict (R89). -/
def Verdict.code : Verdict → BitVec 2
  | .reject => 0b00#2
  | .header => 0b01#2
  | .frameEnd => 0b10#2

/-- Code of a token kind (R81). -/
def TokenKind.code : TokenKind → BitVec 2
  | .edge => 0b00#2
  | .start => 0b01#2
  | .cfg => 0b10#2
  | .reserved => 0b11#2

/-- The token kind with the given code (R81). -/
def TokenKind.ofCode (c : BitVec 2) : TokenKind :=
  match c.toNat with
  | 0 => .edge
  | 1 => .start
  | 2 => .cfg
  | _ => .reserved

/-- Portion id (R92). -/
def Portion.pid : Portion → BitVec 2
  | .enc => 0b00#2
  | .serial => 0b01#2
  | .button => 0b10#2

/-! ## The input token (R80 to R86) -/

/-- `kind`, token bits PAYLOAD_W+7 and PAYLOAD_W+6 (R80). -/
def tokenKind (w : TokenWord) : TokenKind := .ofCode (w.extractLsb' 70 2)

/-- `L`, token bit PAYLOAD_W+5 (R80). -/
def tokenL (w : TokenWord) : BitVec 1 := w.extractLsb' 69 1

/-- The reserved header bits, token bits PAYLOAD_W+4 to PAYLOAD_W (R80, R85). -/
def tokenReserved (w : TokenWord) : BitVec 5 := w.extractLsb' 64 5

/-- `payload`, token bits PAYLOAD_W-1 to 0 (R80): an edge's sample, a configuration's rate. -/
def tokenPayload (w : TokenWord) : BitVec 64 := w.extractLsb' 0 64

/-- An edge's new level (R82). -/
def tokenLevel (w : TokenWord) : Level := .ofBit (tokenL w)

/-- A configuration's polarity (R83). -/
def tokenPolarity (w : TokenWord) : Polarity := .ofBit (tokenL w)

/-- A token word with its reserved header bits 0 (R80). -/
def mkToken (kind : TokenKind) (l : BitVec 1) (payload : BitVec 64) : TokenWord :=
  kind.code ++ l ++ 0#5 ++ payload

/-- The EDGE token (R82). -/
def edgeToken (level : Level) (sample : Sample) : TokenWord := mkToken .edge level.bit sample

/-- The CFG token (R83). -/
def cfgToken (pol : Polarity) (rate : Rate) : TokenWord := mkToken .cfg pol.bit rate

/-- The canonical START token (R84). -/
def startToken : TokenWord := mkToken .start 0#1 0#64

/-- A token of the reserved kind (R81, R103). -/
def rsvToken (payload : BitVec 64) : TokenWord := mkToken .reserved 0#1 payload

/-- `m`: whether the token's `L` equals the active level (R87). -/
def tokenMatches (active : Level) (w : TokenWord) : BitVec 1 := if tokenLevel w = active then 1#1 else 0#1

/-- The dispatch key `{ctl, kind, m}` (R87). -/
def dispatchKey (c : Ctl) (active : Level) (w : TokenWord) : BitVec 6 :=
  c.code ++ (tokenKind w).code ++ tokenMatches active w

/-- The operation that an offered token selects in control state `c`, with its operands (R87, R88). Reserved header bits, and `L`
and `payload` where the kind ignores them, are not read (R85). -/
def decodeToken (c : Ctl) (active : Level) (w : TokenWord) : Instr :=
  match c with
  | .idle =>
    match tokenKind w with
    | .edge => .edgeDrop (tokenLevel w) (tokenPayload w)
    | .start => .start
    | .cfg => .cfg (tokenPolarity w) (tokenPayload w)
    | .reserved => .rsv c.cc
  | .waitSync =>
    match tokenKind w with
    | .edge =>
      if tokenLevel w = active then .edgeSync (tokenLevel w) (tokenPayload w)
      else .edgeSkip (tokenLevel w) (tokenPayload w)
    | .start => .startIgnored c.cc
    | .cfg => .cfgIgnored c.cc (tokenPolarity w) (tokenPayload w)
    | .reserved => .rsv c.cc
  | .waitMid =>
    match tokenKind w with
    | .edge => .edgeMid (tokenLevel w) (tokenPayload w)
    | .start => .startIgnored c.cc
    | .cfg => .cfgIgnored c.cc (tokenPolarity w) (tokenPayload w)
    | .reserved => .rsv c.cc
  | .waitEnd =>
    match tokenKind w with
    | .edge => .edgeEnd (tokenLevel w) (tokenPayload w)
    | .start => .startIgnored c.cc
    | .cfg => .cfgIgnored c.cc (tokenPolarity w) (tokenPayload w)
    | .reserved => .rsv c.cc
  | .halt => .hold w
  | .reserved5 | .reserved6 | .reserved7 => .reservedCtl c.cc w

/-! ## The output event word (R90 to R93) -/

/-- The channels (R91); `metric` is META, which no event is on (R96). -/
inductive Channel
  | bit
  | byte
  | portion
  | raw
  | metric
  deriving DecidableEq, Repr

/-- Code of a channel (R91). -/
def Channel.code : Channel → BitVec 3
  | .bit => 0b000#3
  | .byte => 0b001#3
  | .portion => 0b010#3
  | .raw => 0b011#3
  | .metric => 0b100#3

/-- An event word with its reserved header bits 0 (R90). -/
def mkEventWord (ch : Channel) (pid : BitVec 2) (start stop : Sample) (value : BitVec 32) : EventWord :=
  ch.code ++ pid ++ 0#3 ++ start ++ stop ++ value

/-- `ch`, event bits 2*SAMPLE_W+39 to 2*SAMPLE_W+37 (R90). -/
def eventCh (w : EventWord) : BitVec 3 := w.extractLsb' 165 3

/-- `pid`, event bits 2*SAMPLE_W+36 and 2*SAMPLE_W+35 (R90). -/
def eventPid (w : EventWord) : BitVec 2 := w.extractLsb' 163 2

/-- The reserved header bits, event bits 2*SAMPLE_W+34 to 2*SAMPLE_W+32 (R90). -/
def eventReserved (w : EventWord) : BitVec 3 := w.extractLsb' 160 3

/-- `start`, event bits 2*SAMPLE_W+31 to SAMPLE_W+32 (R90). -/
def eventStart (w : EventWord) : Sample := w.extractLsb' 96 64

/-- `end`, event bits SAMPLE_W+31 to 32 (R90). -/
def eventStop (w : EventWord) : Sample := w.extractLsb' 32 64

/-- `value`, event bits 31 to 0 (R90). -/
def eventValue (w : EventWord) : BitVec 32 := w.extractLsb' 0 32

/-- The word of an event: its channel's header byte, its span, its value zero-extended (R90 to R93). -/
def Event.word : Event → EventWord
  | .bit a b v => mkEventWord .bit 0#2 a b (v.setWidth 32)
  | .byte a b v => mkEventWord .byte 0#2 a b (v.setWidth 32)
  | .raw a b v => mkEventWord .raw 0#2 a b (v.setWidth 32)
  | .enc a b v => mkEventWord .portion Portion.enc.pid a b v
  | .serial a b v => mkEventWord .portion Portion.serial.pid a b (v.setWidth 32)
  | .button a b v => mkEventWord .portion Portion.button.pid a b (v.setWidth 32)

/-- What is wrong with a pattern that no row of the opcode table has. -/
inductive BadCode
  /-- An entry-phase code other than FINISHING runs no period operation (R89). -/
  | noPeriodOperation
  /-- A reserved channel code, 101 to 111 (R91). -/
  | reservedChannel
  /-- The reserved portion id 11, or a portion id on another channel (R90, R92). -/
  | reservedPortionId
  /-- A reserved header bit of an event word set (R90, R97). -/
  | reservedEventHeader
  /-- A value with bits above its channel's width (R93, R97). -/
  | valueTooWide
  deriving DecidableEq, Repr

/-- The emission whose word this is (R90 to R93, R97). -/
def decodeEvent (w : EventWord) : Except BadCode Instr :=
  if eventReserved w ≠ 0#3 then .error .reservedEventHeader else
  match (eventCh w).toNat, (eventPid w).toNat with
  | 0, 0 =>
    if (eventValue w).toNat < 2 ^ 1 then .ok (.evBit (eventStart w) (eventStop w) ((eventValue w).setWidth 1))
    else .error .valueTooWide
  | 1, 0 =>
    if (eventValue w).toNat < 2 ^ 8 then .ok (.evByte (eventStart w) (eventStop w) ((eventValue w).setWidth 8))
    else .error .valueTooWide
  | 2, 0 => .ok (.evPortionEnc (eventStart w) (eventStop w) (eventValue w))
  | 2, 1 =>
    if (eventValue w).toNat < 2 ^ 28 then .ok (.evPortionSerial (eventStart w) (eventStop w) ((eventValue w).setWidth 28))
    else .error .valueTooWide
  | 2, 2 =>
    if (eventValue w).toNat < 2 ^ 4 then .ok (.evPortionButton (eventStart w) (eventStop w) ((eventValue w).setWidth 4))
    else .error .valueTooWide
  | 3, 0 =>
    if (eventValue w).toNat < 2 ^ 8 then .ok (.evRaw (eventStart w) (eventStop w) ((eventValue w).setWidth 8))
    else .error .valueTooWide
  | 4, 0 => .ok (.evMeta (eventStart w) (eventStop w) (eventValue w))
  | ch, _ => if ch ≤ 4 then .error .reservedPortionId else .error .reservedChannel

/-! ## The decoder -/

/-- What the decoder reads: the three encodings of the opcode table (log 9). -/
inductive Code
  /-- A token offered in a control state, at an active level (R87). -/
  | token (ctl : Ctl) (active : Level) (w : TokenWord)
  /-- The phase a commit enters with (R89). -/
  | entryPhase (code : BitVec 2)
  /-- The verdict code of the period that ends at `pe` (R89). -/
  | verdict (code : BitVec 2) (pe : Sample)
  /-- An event word (R90). -/
  | event (w : EventWord)
  deriving DecidableEq, Repr

/-- The period operation of a verdict code (R89). -/
def decodeVerdict (code : BitVec 2) (pe : Sample) : Instr :=
  match code.toNat with
  | 0 => .reject pe
  | 1 => .header pe
  | 2 => .frameEnd pe
  | _ => .verdictReserved pe

/-- The instruction that a code stands for. -/
def decode : Code → Except BadCode Instr
  | .token c active w => .ok (decodeToken c active w)
  | .entryPhase code => if code = Phase.finishing.code then .ok .finishExit else .error .noPeriodOperation
  | .verdict code pe => .ok (decodeVerdict code pe)
  | .event w => decodeEvent w

/-! ## The encoder -/

/-- The code of an instruction, ignored bits 0. `active` of an operation that does not read `m` is the high level. -/
def encode : Instr → Code
  | .cfg pol rate => .token .idle .high (cfgToken pol rate)
  | .start => .token .idle .high startToken
  | .edgeDrop level sample => .token .idle .high (edgeToken level sample)
  | .hold tok => .token .halt .high tok
  | .edgeSkip level sample => .token .waitSync level.other (edgeToken level sample)
  | .edgeSync level sample => .token .waitSync level (edgeToken level sample)
  | .edgeMid level sample => .token .waitMid .high (edgeToken level sample)
  | .edgeEnd level sample => .token .waitEnd .high (edgeToken level sample)
  | .cfgIgnored cc pol rate => .token (.session cc) .high (cfgToken pol rate)
  | .startIgnored cc => .token (.session cc) .high startToken
  | .rsv cc => .token (.session cc) .high (rsvToken 0#64)
  | .reservedCtl cc tok => .token (.upper cc) .high tok
  | .finishExit => .entryPhase Phase.finishing.code
  | .reject pe => .verdict Verdict.reject.code pe
  | .header pe => .verdict Verdict.header.code pe
  | .frameEnd pe => .verdict Verdict.frameEnd.code pe
  | .verdictReserved pe => .verdict 0b11#2 pe
  | .evBit a b v => .event (Event.bit a b v).word
  | .evByte a b v => .event (Event.byte a b v).word
  | .evPortionEnc a b v => .event (Event.enc a b v).word
  | .evPortionSerial a b v => .event (Event.serial a b v).word
  | .evPortionButton a b v => .event (Event.button a b v).word
  | .evRaw a b v => .event (Event.raw a b v).word
  | .evMeta a b v => .event (mkEventWord .metric 0#2 a b v)

/-! ## The operation map of R88, as a table -/

/-- The rows of the operation map (R88) and the reserved control codes below it. -/
inductive DispatchOp
  | cfg
  | start
  | edgeDrop
  | hold
  | edgeSkip
  | edgeSync
  | edgeMid
  | edgeEnd
  | cfgIgnored
  | startIgnored
  | rsv
  | reservedCtl
  deriving DecidableEq, Repr

/-- The key patterns of R88 as (operation, mask, pattern); a row whose `cc` stands for a set of codes is one line per code. -/
def dispatchRows : List (DispatchOp × BitVec 6 × BitVec 6) :=
  [(.cfg, 0b111110#6, 0b000100#6), (.start, 0b111110#6, 0b000010#6), (.edgeDrop, 0b111110#6, 0b000000#6),
   (.hold, 0b111000#6, 0b100000#6), (.edgeSkip, 0b111111#6, 0b001000#6), (.edgeSync, 0b111111#6, 0b001001#6),
   (.edgeMid, 0b111110#6, 0b010000#6), (.edgeEnd, 0b111110#6, 0b011000#6)] ++
  [(.cfgIgnored, 0b111110#6, 0b001100#6), (.cfgIgnored, 0b111110#6, 0b010100#6), (.cfgIgnored, 0b111110#6, 0b011100#6),
   (.startIgnored, 0b111110#6, 0b001010#6), (.startIgnored, 0b111110#6, 0b010010#6),
   (.startIgnored, 0b111110#6, 0b011010#6)] ++
  [(.rsv, 0b100110#6, 0b000110#6), (.reservedCtl, 0b111000#6, 0b101000#6), (.reservedCtl, 0b110000#6, 0b110000#6)]

/-- The operations whose rows match a key (R88). -/
def dispatchMatches (key : BitVec 6) : List DispatchOp :=
  (dispatchRows.filter fun r => key &&& r.2.1 == r.2.2).map (·.1)

/-- The row of the operation map that an instruction belongs to, if it is a dispatch operation. -/
def Instr.dispatchOp : Instr → Option DispatchOp
  | .cfg .. => some .cfg
  | .start => some .start
  | .edgeDrop .. => some .edgeDrop
  | .hold .. => some .hold
  | .edgeSkip .. => some .edgeSkip
  | .edgeSync .. => some .edgeSync
  | .edgeMid .. => some .edgeMid
  | .edgeEnd .. => some .edgeEnd
  | .cfgIgnored .. => some .cfgIgnored
  | .startIgnored .. => some .startIgnored
  | .rsv .. => some .rsv
  | .reservedCtl .. => some .reservedCtl
  | .finishExit | .reject .. | .header .. | .frameEnd .. | .verdictReserved .. => none
  | .evBit .. | .evByte .. | .evPortionEnc .. | .evPortionSerial .. | .evPortionButton .. | .evRaw .. | .evMeta .. => none

/-! ## Table words -/

/-- The control value a dispatch key names, `key[5:3]` (R87). -/
def keyCtl (key : BitVec 6) : Ctl := .ofCode (key.extractLsb' 3 3)

/-- The token with a dispatch key's kind and with `L` such that `m` is the key's, payload 0 (R87). -/
def keyToken (active : Level) (key : BitVec 6) : TokenWord :=
  mkToken (.ofCode (key.extractLsb' 1 2)) (if key.getLsbD 0 then active.bit else active.other.bit) 0#64

/-- The code of an opcode-table word (log 10). The table gives three encodings over the same small numbers: a word of at most two
bits is a verdict code; a word of one byte is a dispatch key where it fits in the key's 6 bits and an event header where it does
not; a word of at most 72 bits is a token offered after reset; a longer one is an event word. -/
def tableCode (nbits w : Nat) : Code :=
  if nbits ≤ 2 then .verdict (BitVec.ofNat 2 w) 0#64
  else if nbits ≤ 8 then
    if w < 64 then .token (keyCtl (BitVec.ofNat 6 w)) .high (keyToken .high (BitVec.ofNat 6 w))
    else .event (BitVec.ofNat 8 w ++ 0#160)
  else if nbits ≤ 72 then .token .idle .high (BitVec.ofNat 72 w)
  else .event (BitVec.ofNat 168 w)

/-- The instruction the decoder reads from an opcode-table word. -/
def decodeTableWord (nbits w : Nat) : Option Instr :=
  match decode (tableCode nbits w) with
  | .ok i => some i
  | .error _ => none

end Sys2Proof
end

