-- ==== Sys2Proof/Machine/State.lean ====
section
/-! DEFINITION. State: the block's registers (10_state.md R20 to R39) and its interfaces, with the values after power-on reset
(R47, R250).

The block has no memory (R60), so none stands here. -/

namespace Sys2Proof.Machine

/-- The block's state record (R20), under the spec's register names, and the channels it is wired to. -/
structure State where
  /-- The sample rate; 0 means not supplied (R21). -/
  cfg_rate : Rate
  /-- The polarity option (R22). -/
  cfg_pol : Polarity
  /-- The control sequencer (R24, R25). -/
  ctl : Ctl
  /-- The sticky fault status (R26). -/
  err : Err
  /-- Start sample of the current period (R27). -/
  p_start : Sample
  /-- Mid sample of the current period (R28). -/
  p_mid : Sample
  /-- The frame phase (R29). -/
  phase : Phase
  /-- Bits accepted since the last frame reset: BITS_W bits (R30). -/
  bits_consumed : BitVec 16
  /-- Bytes completed since the last frame reset: BYTES_W bits (R31). -/
  bytes_consumed : BitVec 13
  /-- The byte shift register (R32). -/
  byte_acc : BitVec 8
  /-- The encrypted word, first completed byte in lane 0 (R33). -/
  enc_word : BitVec 32
  /-- The serial field (R34). -/
  serial_acc : BitVec 28
  /-- The button field (R35). -/
  button_acc : BitVec 4
  /-- Start of the next bit event's span (R36). -/
  bit_position : Sample
  /-- Start of the next byte event's span (R37). -/
  byte_position : Sample
  /-- Start of the next portion event's span (R38). -/
  portion_position : Sample
  /-- Length of the most recent HEADER period of the frame (R39). -/
  last_period_length : Sample
  /-- The tokens offered and not consumed, the next one first (R70, R80; log 4). -/
  tokens : List TokenWord
  /-- The output trace, oldest event first (R13, R90; log 4). -/
  trace : List Event
  /-- How many of the newest events the host has not taken (R77; log 5). -/
  untaken : Nat
  /-- Whether the host takes an event the moment it is emitted (R77; log 5). -/
  sinkReady : Bool
  deriving DecidableEq, Repr

/-- Why the machine stops in a fault. The block's own two faults, CONFIG_ERROR and COUNT_OVERFLOW, are not here: they are taken as
next states in HALT (R220 to R224; log 3). -/
inductive Fault
  /-- Raised by RESERVED.CTL: a token dispatched in a reserved control state, which no run reaches (R88, I4). Safe. -/
  | reservedCtl
  /-- Raised by VERDICT.RESERVED: the verdict code that is never produced (R89, I5). Safe. -/
  | reservedVerdict
  /-- Raised by EV.META: an emission on the channel that is never emitted (R96, R97, I2). Safe. -/
  | metaEmitted
  deriving DecidableEq, Repr

/-- Why the machine refuses to step. -/
inductive Refusal
  /-- Raised by `exec` for an instruction that has no meaning yet; none is left. Safe. -/
  | notModelled (mnemonic : String)
  /-- Raised by `stepStrict` only: a token of the reserved kind (R85, R237; log 1). Safe. -/
  | reservedKind
  /-- Raised by `stepStrict` only: a token with a reserved header bit set (R85, R237; log 1). Safe. -/
  | reservedHeaderBits
  deriving DecidableEq, Repr

/-- The block right after power-on reset: every register at its value of R47, an empty trace (R250), nothing offered, and a host
that takes its events (log 4, log 5). -/
def State.reset : State where
  cfg_rate := 0
  cfg_pol := .activeHigh
  ctl := .idle
  err := .none
  p_start := 0
  p_mid := 0
  phase := .seek
  bits_consumed := 0
  bytes_consumed := 0
  byte_acc := 0
  enc_word := 0
  serial_acc := 0
  button_acc := 0
  bit_position := 0
  byte_position := 0
  portion_position := 0
  last_period_length := 0
  tokens := []
  trace := []
  untaken := 0
  sinkReady := true

end Sys2Proof.Machine
end

