-- ==== Sys2Proof/Machine/Operands.lean ====
section
/-! DEFINITION. Operands: the values a period operation reads (R40, R86) and the placements of a bit or a byte in a field (R61 to
R63), each stated once. -/

namespace Sys2Proof.Machine

/-- A difference of two sample indices, taken in the integers (R12): negative where the edges decrease. -/
def sampleDiff (a b : Nat) : Int := (b : Int) - (a : Int)

/-- `period_length = pe - ps` (R40). -/
def periodLength (ps pe : Nat) : Int := sampleDiff ps pe

/-- `duty_length = pm - ps` (R40). -/
def dutyLength (ps pm : Nat) : Int := sampleDiff ps pm

/-- `duty_ratio = duty_length / period_length` as numerator and denominator; no rule reads it (R17, R40). -/
def dutyRatio (ps pm pe : Nat) : Int × Int := (dutyLength ps pm, periodLength ps pe)

/-- The period length as the register last_period_length holds it (R39, R176). -/
def storedPeriodLength (ps pe : Sample) : Sample := pe - ps

/-- The back-dated end of a FRAME_END bit, modulo 2^SAMPLE_W (R177; ENDPOINT_WRAP = MOD, R9). -/
def backDatedEnd (bitPosition lastPeriodLength : Sample) : Sample := bitPosition + lastPeriodLength

/-- The byte register after one more bit: the new bit at bit 7, the others shifted down (R178). -/
def shiftInBit (acc : BitVec 8) (b : BitVec 1) : BitVec 8 := (acc >>> 1) ||| (b.setWidth 8 <<< 7)

/-- The encrypted word with the `m`-th completed byte in lane `m - 1` (R62, R182). -/
def insertByte (word : BitVec 32) (m : Nat) (done : BitVec 8) : BitVec 32 :=
  word ||| (done.setWidth 32 <<< (8 * (m - 1)))

/-- The serial field with the bit accepted at `n` in place `n - 33` (R63, R184). -/
def insertSerialBit (acc : BitVec 28) (n : Nat) (b : BitVec 1) : BitVec 28 := acc ||| (b.setWidth 28 <<< (n - 33))

/-- The button field with the bit accepted at `n` in place `n - 61` (R63, R186). -/
def insertButtonBit (acc : BitVec 4) (n : Nat) (b : BitVec 1) : BitVec 4 := acc ||| (b.setWidth 4 <<< (n - 61))

end Sys2Proof.Machine
end

