-- ==== Sys2Proof/Machine/Flags.lean ====
section
/-! DEFINITION. Flags: the transient flags of a commit (R41) and the status port (R94). The block has no arithmetic flags (R120,
R170). -/

namespace Sys2Proof.Machine

/-- `byte_ready`: the commit that accepts bit `n` completes a byte (R41, R180). -/
def byteReady (n : Nat) : Bool := n % 8 == 0

/-- The bit at which a portion is complete (R10). -/
def portionBit : Portion → Nat
  | .enc => Config.N_ENC
  | .serial => Config.N_SERIAL
  | .button => Config.N_BUTTON

/-- `portion_ready(id)`: the commit that accepts bit `n` completes portion `id` (R41, R183, R185, R187). -/
def portionReady (id : Portion) (n : Nat) : Bool := n == portionBit id

/-- Whether the counter would pass its width: `bits_consumed = 2^BITS_W - 1` (R175, R224). -/
def countFull (n : BitVec 16) : Bool := n.toNat == 2 ^ Config.BITS_W - 1

/-- The status port `{ctl, phase, err}` (R46, R94). -/
def State.status (s : State) : BitVec 7 := s.ctl.code ++ s.phase.code ++ s.err.code

end Sys2Proof.Machine
end

