-- ==== Sys2Proof/Machine/Ops.lean ====
section
/-! DEFINITION. Ops: the shared operations over the block's registers and channels: consuming a token, emitting an event, the
frame reset, and taking a fault with the one way out of it. -/

namespace Sys2Proof.Machine

/-- The offered token is consumed (R15, R70). -/
def State.consume (s : State) : State := { s with tokens := s.tokens.tail }

/-- `emit`: one event appended to the output trace (R13). The host has it at once if its sink takes it, else it is one more event
to take (R77). -/
def State.emit (e : Event) (s : State) : State :=
  { s with trace := s.trace ++ [e], untaken := if s.sinkReady then s.untaken else s.untaken + 1 }

/-- `FrameReset(s)`: the full frame reset, its current sample `cur` (R172). -/
def State.frameReset (cur : Sample) (s : State) : State :=
  { s with
    phase := .seek
    bits_consumed := 0
    bytes_consumed := 0
    byte_acc := 0
    enc_word := 0
    serial_acc := 0
    button_acc := 0
    last_period_length := 0
    bit_position := cur
    byte_position := cur
    portion_position := cur }

/-- Taking a fault: `err` records it and `ctl <- HALT`; writes made before stay, nothing else is saved and control goes nowhere
(R220, R222, R224, R228). -/
def State.raiseFault (f : Err) (s : State) : State := { s with err := f, ctl := .halt }

/-- Hardware reset, the only way out of HALT: every register to its power-on value and an empty trace (R229, R250). What the host
holds, its offered tokens and its event sink, is not the block's (log 6). -/
def State.hardwareReset (s : State) : State := { State.reset with tokens := s.tokens, sinkReady := s.sinkReady }

/-- How a commit leaves its step: it runs to its end, or it raised a fault, after which no further write of the step is made (R127,
R220). -/
inductive Flow (σ : Type)
  | done (s : σ)
  | raised (s : σ)
  deriving DecidableEq, Repr

/-- The state a commit leaves, either way. -/
def Flow.state {σ : Type} : Flow σ → σ
  | .done s => s
  | .raised s => s

end Sys2Proof.Machine
end

