-- ==== Sys2Proof/Machine/Emission.lean ====
section
/-! DEFINITION. Emission: the meanings of the seven event rows of the opcode table, `emit CH(start, end, value)` (R13, R90 to R93,
R96). -/

namespace Sys2Proof.Machine

/-- EV.BIT (R176, R177). -/
def execEvBit (start stop : Sample) (value : BitVec 1) (s : State) : Host.Outcome State Fault Refusal :=
  .next (s.emit (.bit start stop value))

/-- EV.BYTE (R180). -/
def execEvByte (start stop : Sample) (value : BitVec 8) (s : State) : Host.Outcome State Fault Refusal :=
  .next (s.emit (.byte start stop value))

/-- EV.PORTION.ENC (R183). -/
def execEvPortionEnc (start stop : Sample) (value : BitVec 32) (s : State) : Host.Outcome State Fault Refusal :=
  .next (s.emit (.enc start stop value))

/-- EV.PORTION.SERIAL (R185). -/
def execEvPortionSerial (start stop : Sample) (value : BitVec 28) (s : State) : Host.Outcome State Fault Refusal :=
  .next (s.emit (.serial start stop value))

/-- EV.PORTION.BUTTON (R187). -/
def execEvPortionButton (start stop : Sample) (value : BitVec 4) (s : State) : Host.Outcome State Fault Refusal :=
  .next (s.emit (.button start stop value))

/-- EV.RAW (R181). -/
def execEvRaw (start stop : Sample) (value : BitVec 8) (s : State) : Host.Outcome State Fault Refusal :=
  .next (s.emit (.raw start stop value))

/-- EV.META: never emitted; a model that emits one faults (R96, R97, I2). -/
def execEvMeta (_start _stop : Sample) (_value : BitVec 32) (_s : State) : Host.Outcome State Fault Refusal :=
  .fault .metaEmitted

end Sys2Proof.Machine
end

