-- ==== Sys2Proof/Machine/Classifier.lean ====
section
/-! DEFINITION. Classifier: the Edge Timing Classifier of 41_classifier.md, two pure functions (R140, R151). -/

namespace Sys2Proof.Machine

/-! ## Binary64 (R143)

The part of IEEE 754 that R143 names, for values that are not negative: round-to-nearest-even, with subnormals, overflow to infinity,
and the NaN of a quotient that has no value. R143 names the standard and not its rules (PRESUMED, log 8). -/

/-- A binary64 value that is not negative; a finite one is `scaled * 2^-1074`, a multiple of the smallest subnormal. -/
inductive Binary64
  | finite (scaled : Nat)
  | inf
  | nan
  deriving DecidableEq, Repr

/-- The binary64 value nearest `num / den`, ties to even, for `den > 0`: 53 significant bits, fewer below 2^-1022, and infinity from
2^1024 on after rounding (R143). -/
def Binary64.nearest (num den : Nat) : Binary64 :=
  let scaled := num * 2 ^ 1074
  let unit := 2 ^ ((scaled / den).log2 - 52)
  let mant := scaled / (den * unit)
  let rest := scaled % (den * unit)
  let rounded :=
    if 2 * rest < den * unit then mant * unit
    else if den * unit < 2 * rest then (mant + 1) * unit
    else (mant + mant % 2) * unit
  if rounded < 2 ^ (1024 + 1074) then .finite rounded else .inf

/-- `fl(n)`: the binary64 value nearest an integer (R143). -/
def Binary64.ofNat (n : Nat) : Binary64 := .nearest n 1

/-- The quotient of two binary64 values (R143). -/
def Binary64.div : Binary64 → Binary64 → Binary64
  | .nan, .nan | .nan, .inf | .nan, .finite _ | .inf, .nan | .finite _, .nan => .nan
  | .inf, .inf => .nan
  | .inf, .finite _ => .inf
  | .finite _, .inf => .finite 0
  | .finite a, .finite b => if b = 0 then (if a = 0 then .nan else .inf) else .nearest a b

/-- `a <= b` of two binary64 values; never, if one is a NaN (R143). -/
def Binary64.le : Binary64 → Binary64 → Bool
  | .nan, .nan | .nan, .inf | .nan, .finite _ | .inf, .nan | .finite _, .nan => false
  | .inf, .inf => true
  | .inf, .finite _ => false
  | .finite _, .inf => true
  | .finite a, .finite b => decide (a ≤ b)

/-- `a < b` of two binary64 values; never, if one is a NaN (R143). -/
def Binary64.lt : Binary64 → Binary64 → Bool
  | .nan, .nan | .nan, .inf | .nan, .finite _ | .inf, .nan | .finite _, .nan => false
  | .inf, .inf => false
  | .inf, .finite _ => false
  | .finite _, .inf => true
  | .finite a, .finite b => decide (a < b)

/-- `fl(L) / fl(R)` in binary64 (R143). -/
def binaryTime (len rate : Nat) : Binary64 := (Binary64.ofNat len).div (Binary64.ofNat rate)

/-- The binary64 value nearest a threshold's decimal literal (R143). -/
def binaryThreshold (t : Threshold) : Binary64 := .nearest t.num t.den

/-! ## Comparing times (R142, R143)

Under BINARY64 a negative length, which only a malformed period has, counts as 0 (DESIGN CHOICE, log 12). -/

/-- `len / rate >= t` (R142, R143). -/
def timeGe (ar : ThresholdArith) (len : Int) (rate : Nat) (t : Threshold) : Bool :=
  match ar with
  | .exact => decide (len * t.den ≥ t.num * rate)
  | .binary64 => (binaryThreshold t).le (binaryTime len.toNat rate)

/-- `len / rate <= t` (R142, R143). -/
def timeLe (ar : ThresholdArith) (len : Int) (rate : Nat) (t : Threshold) : Bool :=
  match ar with
  | .exact => decide (len * t.den ≤ t.num * rate)
  | .binary64 => (binaryTime len.toNat rate).le (binaryThreshold t)

/-- `len / rate < t` (R142, R143). -/
def timeLt (ar : ThresholdArith) (len : Int) (rate : Nat) (t : Threshold) : Bool :=
  match ar with
  | .exact => decide (len * t.den < t.num * rate)
  | .binary64 => (binaryTime len.toNat rate).lt (binaryThreshold t)

/-! ## The verdict (R141, R144 to R147) -/

/-- A malformed period: not `ps < pm < pe`, compared unsigned (R141). -/
def malformed (ps pm pe : Nat) : Bool := !(decide (ps < pm) && decide (pm < pe))

/-- An in-range period, both bounds inclusive (R144). -/
def inHeaderRange (ar : ThresholdArith) (ps pe rate : Nat) : Bool :=
  timeGe ar (periodLength ps pe) rate Config.T_PERIOD_MIN && timeLe ar (periodLength ps pe) rate Config.T_PERIOD_MAX

/-- The FRAME_END condition (R145). -/
def isFrameEnd (ar : ThresholdArith) (ps pm rate n : Nat) (ph : Phase) : Bool :=
  decide (n > Config.N_FRAME_END_MIN) && timeLt ar (dutyLength ps pm) rate Config.T_FRAME_END_DUTY && decide (ph = .reading)

/-- `Classify` under a threshold arithmetic, at any widths: the tests in the order of R147, the first that holds deciding. -/
def classifyWith (ar : ThresholdArith) (ps pm pe rate n : Nat) (ph : Phase) : Verdict :=
  if malformed ps pm pe then .reject
  else if inHeaderRange ar ps pe rate then .header
  else if isFrameEnd ar ps pm rate n ph then .frameEnd
  else .reject

/-- `BitValue` under a threshold arithmetic, at any widths (R148). -/
def bitValueWith (ar : ThresholdArith) (ps pm rate : Nat) : BitVec 1 :=
  if timeGe ar (dutyLength ps pm) rate Config.T_BIT0_DUTY then 0#1 else 1#1

/-- `Classify` of this hardware (R9, R147). -/
def classify (ps pm pe : Sample) (rate : Rate) (n : BitVec 16) (ph : Phase) : Verdict :=
  classifyWith Config.THRESHOLD_ARITH ps.toNat pm.toNat pe.toNat rate.toNat n.toNat ph

/-- `BitValue` of this hardware (R9, R148). -/
def bitValue (ps pm : Sample) (rate : Rate) : BitVec 1 :=
  bitValueWith Config.THRESHOLD_ARITH ps.toNat pm.toNat rate.toNat

end Sys2Proof.Machine
end

