-- ==== Sys2Proof/Machine/Assembler.lean ====
section
/-! DEFINITION. Assembler: the Bit/Byte/Portion Assembler of 42_assembler.md, one definition per rule, and the meanings of the five
period operations of the opcode table (R89).

A period operation reads its period's start and mid samples from p_start and p_mid, which no part of a commit writes, and its end
sample `pe` from its operand. After the count (R175) the position `n` of the bit is bits_consumed itself. -/

namespace Sys2Proof.Machine

/-! ## The bit layer (R175 to R178) -/

/-- The bit of the current period (R148, R175). -/
def State.periodBit (s : State) : BitVec 1 := bitValue s.p_start s.p_mid s.cfg_rate

/-- The bit is counted (R175). -/
def countBit (s : State) : State := { s with bits_consumed := s.bits_consumed + 1 }

/-- HEADER: the bit event, the bit marker, the period length and the phase (R176). -/
def headerBit (b : BitVec 1) (pe : Sample) (s : State) : State :=
  { s.emit (.bit s.bit_position pe b) with
    bit_position := pe
    last_period_length := storedPeriodLength s.p_start pe
    phase := .reading }

/-- FRAME_END: the bit event with its back-dated end, and the phase (R177). -/
def frameEndBit (b : BitVec 1) (s : State) : State :=
  { s.emit (.bit s.bit_position (backDatedEnd s.bit_position s.last_period_length) b) with phase := .finishing }

/-- The bit is shifted into the byte register (R178). -/
def shiftByte (b : BitVec 1) (s : State) : State := { s with byte_acc := shiftInBit s.byte_acc b }

/-! ## The byte layer (R180 to R182) -/

/-- The byte event and the raw byte, the byte marker, the byte count and the cleared register (R180, R181). -/
def emitByte (pe : Sample) (s : State) : State :=
  { (s.emit (.byte s.byte_position pe s.byte_acc)).emit (.raw s.byte_position pe s.byte_acc) with
    byte_position := pe
    bytes_consumed := s.bytes_consumed + 1
    byte_acc := 0 }

/-- The completed byte goes into the encrypted word while `bytes_consumed <= 4` (R182). -/
def insertEnc (done : BitVec 8) (s : State) : State :=
  if s.bytes_consumed.toNat ≤ 4 then { s with enc_word := insertByte s.enc_word s.bytes_consumed.toNat done } else s

/-- Byte completion, when `n` is a multiple of 8 (R180 to R182). -/
def completeByte (pe : Sample) (s : State) : State :=
  if byteReady s.bits_consumed.toNat then insertEnc s.byte_acc (emitByte pe s) else s

/-! ## The portion layer (R183 to R187) -/

/-- The encrypted-word portion, at `n = 32` (R183). -/
def encPortion (pe : Sample) (s : State) : State :=
  if portionReady .enc s.bits_consumed.toNat then
    { s.emit (.enc s.portion_position pe s.enc_word) with portion_position := pe, enc_word := 0 }
  else s

/-- Serial accumulation, for `32 < n <= 60` (R184). -/
def serialBit (b : BitVec 1) (s : State) : State :=
  if Config.N_ENC < s.bits_consumed.toNat ∧ s.bits_consumed.toNat ≤ Config.N_SERIAL then
    { s with serial_acc := insertSerialBit s.serial_acc s.bits_consumed.toNat b }
  else s

/-- The serial portion, at `n = 60` (R185). -/
def serialPortion (pe : Sample) (s : State) : State :=
  if portionReady .serial s.bits_consumed.toNat then
    { s.emit (.serial s.portion_position pe s.serial_acc) with portion_position := pe }
  else s

/-- Button accumulation, for `60 < n <= 64` (R186). -/
def buttonBit (b : BitVec 1) (s : State) : State :=
  if Config.N_SERIAL < s.bits_consumed.toNat ∧ s.bits_consumed.toNat ≤ Config.N_BUTTON then
    { s with button_acc := insertButtonBit s.button_acc s.bits_consumed.toNat b }
  else s

/-- The button portion, at `n = 64` (R187). -/
def buttonPortion (pe : Sample) (s : State) : State :=
  if portionReady .button s.bits_consumed.toNat then
    { s.emit (.button s.portion_position pe s.button_acc) with portion_position := pe }
  else s

/-! ## The commit (R171 to R175, R179, R191) -/

/-- The reset after a FRAME_END, at the start sample of the next period (R173). -/
def finishExitOp (s : State) : State := s.frameReset s.p_start

/-- A rejected period (R174). -/
def rejectOp (pe : Sample) (s : State) : State := s.frameReset pe

/-- An accepted period: the overflow test first (R175, R227), then the count and the rest of the commit. -/
def accept (rest : State → State) (s : State) : Flow State :=
  if countFull s.bits_consumed then .raised (s.raiseFault .countOverflow) else .done (rest (countBit s))

/-- What a HEADER commit does after the count, with the period's bit (R176, R178, R180 to R188). -/
def headerRest (b : BitVec 1) (pe : Sample) (s : State) : State :=
  let bitLayer := shiftByte b (headerBit b pe s)
  let byteLayer := completeByte pe bitLayer
  let encLayer := encPortion pe byteLayer
  let serialLayer := serialPortion pe (serialBit b encLayer)
  buttonPortion pe (buttonBit b serialLayer)

/-- What a FRAME_END commit does after the count: only the bit event and the shift (R177 to R179). -/
def frameEndRest (b : BitVec 1) (s : State) : State := shiftByte b (frameEndBit b s)

/-- A HEADER period (R175 to R188). -/
def headerOp (pe : Sample) (s : State) : Flow State := accept (headerRest s.periodBit pe) s

/-- A FRAME_END period (R175, R177 to R179). -/
def frameEndOp (s : State) : Flow State := accept (frameEndRest s.periodBit) s

/-- The verdict on the period ending at `pe` (R147, R171). -/
def State.verdict (s : State) (pe : Sample) : Verdict :=
  classify s.p_start s.p_mid pe s.cfg_rate s.bits_consumed s.phase

/-- The state a commit classifies in: after FinishExit if the entry phase is FINISHING (R171, R173). -/
def commitEntry (s : State) : State := if s.phase = .finishing then finishExitOp s else s

/-- `Commit(ps, pm, pe)` (R171, R191). -/
def commit (pe : Sample) (s : State) : Flow State :=
  match (commitEntry s).verdict pe with
  | .reject => .done (rejectOp pe (commitEntry s))
  | .header => headerOp pe (commitEntry s)
  | .frameEnd => frameEndOp (commitEntry s)

/-! ## The meanings of the period operations (R89) -/

/-- FINISH_EXIT (R173). -/
def execFinishExit (s : State) : Host.Outcome State Fault Refusal := .next (finishExitOp s)

/-- REJECT (R174). -/
def execReject (pe : Sample) (s : State) : Host.Outcome State Fault Refusal := .next (rejectOp pe s)

/-- HEADER (R175, R176, R178, R180 to R188). -/
def execHeader (pe : Sample) (s : State) : Host.Outcome State Fault Refusal := .next (headerOp pe s).state

/-- FRAME_END (R175, R177 to R179). The events and registers do not depend on `pe` (R177). -/
def execFrameEnd (_pe : Sample) (s : State) : Host.Outcome State Fault Refusal := .next (frameEndOp s).state

/-- VERDICT.RESERVED: never produced; a model that holds it faults (R89, I5). -/
def execVerdictReserved (_pe : Sample) (_s : State) : Host.Outcome State Fault Refusal := .fault .reservedVerdict

end Sys2Proof.Machine
end

