-- ==== Sys2Proof/Machine/Intake.lean ====
section
/-! DEFINITION. Intake: the meanings of the dispatch operations, from 40_edge_intake.md. Every operation but HOLD consumes its
token (R15, R123). -/

namespace Sys2Proof.Machine

/-- CFG: latch the rate and the polarity (R121). -/
def execCfg (pol : Polarity) (rate : Rate) (s : State) : Host.Outcome State Fault Refusal :=
  .next { s.consume with cfg_rate := rate, cfg_pol := pol }

/-- START: CONFIG_ERROR without a rate, else a frame reset at sample 0 and WAIT_SYNC (R122, R222, R252). -/
def execStart (s : State) : Host.Outcome State Fault Refusal :=
  if s.cfg_rate = 0 then .next (s.consume.raiseFault .configError)
  else .next { s.consume.frameReset 0 with ctl := .waitSync }

/-- EDGE.DROP: the token is consumed, nothing else (R123). -/
def execEdgeDrop (_level : Level) (_sample : Sample) (s : State) : Host.Outcome State Fault Refusal := .next s.consume

/-- HOLD: the token is not consumed and nothing changes (R123, R220, R223; log 2). -/
def execHold (_tok : TokenWord) (s : State) : Host.Outcome State Fault Refusal := .next s

/-- EDGE.SKIP: the token is consumed, nothing else (R124). -/
def execEdgeSkip (_level : Level) (_sample : Sample) (s : State) : Host.Outcome State Fault Refusal := .next s.consume

/-- EDGE.SYNC: a frame reset at the edge, which starts the first period (R125, R253). -/
def execEdgeSync (_level : Level) (sample : Sample) (s : State) : Host.Outcome State Fault Refusal :=
  .next { s.consume.frameReset sample with p_start := sample, ctl := .waitMid }

/-- EDGE.MID: capture the mid edge; its level is not read (R126, R129). -/
def execEdgeMid (_level : Level) (sample : Sample) (s : State) : Host.Outcome State Fault Refusal :=
  .next { s.consume with p_mid := sample, ctl := .waitEnd }

/-- What EDGE.END writes after its commit: the next period starts at the same edge, unless the commit raised a fault (R127). -/
def endPeriod (pe : Sample) : Flow State → State
  | .done s => { s with p_start := pe, ctl := .waitMid }
  | .raised s => s

/-- EDGE.END: commit the period that ends here; the edge's level is not read (R127, R129). -/
def execEdgeEnd (_level : Level) (sample : Sample) (s : State) : Host.Outcome State Fault Refusal :=
  .next (endPeriod sample (commit sample s.consume))

/-- CFG.IGNORED: the token is consumed, nothing else (R134). -/
def execCfgIgnored (_cc : BitVec 2) (_pol : Polarity) (_rate : Rate) (s : State) : Host.Outcome State Fault Refusal :=
  .next s.consume

/-- START.IGNORED: the token is consumed, nothing else (R134). -/
def execStartIgnored (_cc : BitVec 2) (s : State) : Host.Outcome State Fault Refusal := .next s.consume

/-- RSV: the hardware consumes the token with no effect (R85, R132). The refusal that R237 asks of a model is `stepStrict`'s
(log 1). -/
def execRsv (_cc : BitVec 2) (s : State) : Host.Outcome State Fault Refusal := .next s.consume

/-- RESERVED.CTL: never occurs; a model maps it to a fault (R88, R237). -/
def execReservedCtl (_cc : BitVec 2) (_tok : TokenWord) (_s : State) : Host.Outcome State Fault Refusal :=
  .fault .reservedCtl

end Sys2Proof.Machine
end

