-- ==== Sys2Proof/Machine/Dispatch.lean ====
section
/-! DEFINITION. Dispatch: one arm per row of the opcode table, each a direct call of its meaning. -/

namespace Sys2Proof.Machine

def exec (i : Instr) (s : State) : Host.Outcome State Fault Refusal :=
  match i with
  -- dispatch operations (30_encoding.md R88)
  | .cfg pol rate => Sys2Proof.Machine.execCfg pol rate s
  | .start => Sys2Proof.Machine.execStart s
  | .edgeDrop level sample => Sys2Proof.Machine.execEdgeDrop level sample s
  | .hold tok => Sys2Proof.Machine.execHold tok s
  | .edgeSkip level sample => Sys2Proof.Machine.execEdgeSkip level sample s
  | .edgeSync level sample => Sys2Proof.Machine.execEdgeSync level sample s
  | .edgeMid level sample => Sys2Proof.Machine.execEdgeMid level sample s
  | .edgeEnd level sample => Sys2Proof.Machine.execEdgeEnd level sample s
  | .cfgIgnored cc pol rate => Sys2Proof.Machine.execCfgIgnored cc pol rate s
  | .startIgnored cc => Sys2Proof.Machine.execStartIgnored cc s
  | .rsv cc => Sys2Proof.Machine.execRsv cc s
  | .reservedCtl cc tok => Sys2Proof.Machine.execReservedCtl cc tok s
  -- period operations (30_encoding.md R89)
  | .finishExit => Sys2Proof.Machine.execFinishExit s
  | .reject pe => Sys2Proof.Machine.execReject pe s
  | .header pe => Sys2Proof.Machine.execHeader pe s
  | .frameEnd pe => Sys2Proof.Machine.execFrameEnd pe s
  | .verdictReserved pe => Sys2Proof.Machine.execVerdictReserved pe s
  -- event emissions (30_encoding.md R90 to R93)
  | .evBit start stop value => Sys2Proof.Machine.execEvBit start stop value s
  | .evByte start stop value => Sys2Proof.Machine.execEvByte start stop value s
  | .evPortionEnc start stop value => Sys2Proof.Machine.execEvPortionEnc start stop value s
  | .evPortionSerial start stop value => Sys2Proof.Machine.execEvPortionSerial start stop value s
  | .evPortionButton start stop value => Sys2Proof.Machine.execEvPortionButton start stop value s
  | .evRaw start stop value => Sys2Proof.Machine.execEvRaw start stop value s
  | .evMeta start stop value => Sys2Proof.Machine.execEvMeta start stop value s

end Sys2Proof.Machine
end

