-- ==== Sys2Proof/Machine/Fetch.lean ====
section
/-! DEFINITION. Fetch: how the next operation is chosen from the offered token (R15, R70, R77, R87), and where a table word is put
for the step to find it (log 10). -/

namespace Sys2Proof.Machine

/-- `active_level` (R23). -/
def State.activeLevel (s : State) : Level := s.cfg_pol.activeLevel

/-- The host has not taken every event of the previous step, so the next token is held (R77, R227, R261). -/
def State.backpressured (s : State) : Bool := s.untaken != 0

/-- The operation of the next step: none while events wait to be taken (R77) or no token is offered (R133, R236); else the one the
key of the offered token selects (R87). -/
def State.fetch (s : State) : Option Instr :=
  if s.backpressured then none
  else
    match s.tokens with
    | [] => none
    | w :: _ => some (decodeToken s.ctl s.activeLevel w)

/-- The state in which a code is what the next step runs: the control state of its key, and its token offered next, with every event
taken. Period operations and event words are never fetched, so they leave the state alone (R15, R89; log 10). -/
def State.withCode (s : State) : Code → State
  | .token c _ w => { s with ctl := c, tokens := w :: s.tokens, untaken := 0 }
  | .entryPhase _ => s
  | .verdict _ _ => s
  | .event _ => s

/-- The code of a table word, a dispatch key's `L` chosen for the state's own active level (R87). -/
def State.tableCode (s : State) (nbits w : Nat) : Code :=
  match Sys2Proof.tableCode nbits w with
  | .token c a t => if nbits ≤ 8 then .token c s.activeLevel (keyToken s.activeLevel (BitVec.ofNat 6 w)) else .token c a t
  | .entryPhase code => .entryPhase code
  | .verdict code pe => .verdict code pe
  | .event e => .event e

end Sys2Proof.Machine
end

