-- ==== Sys2Proof/Machine/Step.lean ====
section
/-! DEFINITION. Step: one step of the block consumes one input token or holds it (R15). -/

namespace Sys2Proof.Machine

/-- One step. With an event still to be taken, or no token offered, the block waits and nothing changes (R77, R133, R236). -/
def step (s : State) : Host.Outcome State Fault Refusal :=
  match s.fetch with
  | none => .next s
  | some i => exec i s

/-- The state whose next step fetches a table word (log 10). -/
def State.withFetchWord (s : State) (nbits w : Nat) : State := s.withCode (s.tableCode nbits w)

end Sys2Proof.Machine
end

