-- ==== Sys2Proof/Machine/Parametric.lean ====
section
/-! DEFINITION. Parametric: the block with the parameters of 00_scope.md R9 as a named argument, at every legal value, `inf` included.

Registers whose width is a parameter are natural numbers here, kept below their width by the operation that writes them; those whose
width is fixed are the words they are (R32 to R35). The commit is the one listing of R191. `Sys2Proof.Machine.step` is this block at
`Config.hardware`, through `State.toParam`. With SAMPLE_W = inf a token and an event have no word, so both are records here (log 18). -/

namespace Sys2Proof

/-! ## Parameters (R9) -/

/-- A number kept in a register of a width: modulo 2^n, or whole (R9). -/
def Width.fit : Width → Nat → Nat
  | .bits n, v => v % 2 ^ n
  | .inf, v => v

/-- Whether a width is at least `n` bits (R9). -/
def Width.atLeast (n : Nat) : Width → Bool
  | .bits k => decide (n ≤ k)
  | .inf => true

/-- Whether a counter is at the last value of its width; never, with `inf` (R175, R224). -/
def Width.isFull : Width → Nat → Bool
  | .bits n, v => v == 2 ^ n - 1
  | .inf, _ => false

/-- The legal values of the parameters (R9). -/
def Params.legal (p : Params) : Bool :=
  Width.atLeast 16 p.SAMPLE_W && decide (1 ≤ p.RATE_W) && Width.atLeast 7 p.BITS_W &&
    (match p.BITS_W with
      | .bits n => Width.atLeast (n - 3) p.BYTES_W
      | .inf => decide (p.BYTES_W = .inf)) &&
    (match p.ENDPOINT_WRAP with
      | .exact => decide (p.SAMPLE_W = .inf)
      | .mod => true)

/-- The back-dated end of a final bit (R177): exact, or modulo 2^SAMPLE_W. -/
def Params.endpoint (p : Params) (bitPosition lastPeriodLength : Nat) : Nat :=
  match p.ENDPOINT_WRAP with
  | .exact => bitPosition + lastPeriodLength
  | .mod => Width.fit p.SAMPLE_W (bitPosition + lastPeriodLength)

/-! ## Tokens and events (R80 to R93) -/

/-- An input token, its reserved header bits not read (R80, R85). -/
structure ParamToken where
  kind : TokenKind
  l : BitVec 1
  payload : Nat
  deriving DecidableEq, Repr

/-- An output event (R90). -/
structure ParamEvent where
  kind : EventKind
  start : Nat
  stop : Nat
  value : Nat
  deriving DecidableEq, Repr

/-- `PAYLOAD_W = max(SAMPLE_W, RATE_W)` (R80). -/
def Params.payloadW (p : Params) : Width :=
  match p.SAMPLE_W with
  | .bits n => .bits (max n p.RATE_W)
  | .inf => .inf

/-- An EDGE token's sample: payload bits at and above SAMPLE_W are ignored (R82). -/
def Params.sampleOf (p : Params) (t : ParamToken) : Nat := Width.fit p.SAMPLE_W t.payload

/-- A CFG token's rate: payload bits at and above RATE_W are ignored (R83, R85). -/
def Params.rateOf (p : Params) (t : ParamToken) : Nat := t.payload % 2 ^ p.RATE_W

/-- A token's word of `8 + PAYLOAD_W` bits, where PAYLOAD_W is finite (R80). -/
def Params.tokenWord (p : Params) (t : ParamToken) : Option Nat :=
  match p.payloadW with
  | .bits w => some ((t.kind.code.toNat * 2 + t.l.toNat) * 2 ^ (5 + w) + t.payload % 2 ^ w)
  | .inf => none

/-- The token a word of `8 + w` bits stands for (R80). -/
def ParamToken.ofWord (w word : Nat) : ParamToken where
  kind := .ofCode (BitVec.ofNat 2 (word / 2 ^ (w + 6)))
  l := BitVec.ofNat 1 (word / 2 ^ (w + 5))
  payload := word % 2 ^ w

/-- The header byte of an event's kind (R91, R92). -/
def eventHeader : EventKind → Nat
  | .bit => 0x00
  | .byte => 0x20
  | .raw => 0x60
  | .portion .enc => 0x40
  | .portion .serial => 0x48
  | .portion .button => 0x50

/-- An event's word of `8 + 2*SAMPLE_W + 32` bits, where SAMPLE_W is finite (R90). -/
def Params.eventWord (p : Params) (e : ParamEvent) : Option Nat :=
  match p.SAMPLE_W with
  | .bits w => some (((eventHeader e.kind * 2 ^ w + e.start) * 2 ^ w + e.stop) * 2 ^ 32 + e.value)
  | .inf => none

end Sys2Proof

namespace Sys2Proof.Machine

/-! ## State (R20 to R39) -/

/-- The block's state record at any widths, under the names of `State`. -/
structure ParamState where
  cfg_rate : Nat
  cfg_pol : Polarity
  ctl : Ctl
  err : Err
  p_start : Nat
  p_mid : Nat
  phase : Phase
  bits_consumed : Nat
  bytes_consumed : Nat
  byte_acc : BitVec 8
  enc_word : BitVec 32
  serial_acc : BitVec 28
  button_acc : BitVec 4
  bit_position : Nat
  byte_position : Nat
  portion_position : Nat
  last_period_length : Nat
  tokens : List ParamToken
  trace : List ParamEvent
  untaken : Nat
  sinkReady : Bool
  deriving DecidableEq, Repr

/-- The block right after power-on reset (R47, R250; log 4, log 5). -/
def ParamState.reset : ParamState where
  cfg_rate := 0
  cfg_pol := .activeHigh
  ctl := .idle
  err := .none
  p_start := 0
  p_mid := 0
  phase := .seek
  bits_consumed := 0
  bytes_consumed := 0
  byte_acc := 0
  enc_word := 0
  serial_acc := 0
  button_acc := 0
  bit_position := 0
  byte_position := 0
  portion_position := 0
  last_period_length := 0
  tokens := []
  trace := []
  untaken := 0
  sinkReady := true

/-- The offered token is consumed (R15, R70). -/
def ParamState.consume (s : ParamState) : ParamState := { s with tokens := s.tokens.tail }

/-- Events appended to the trace, left to be taken where the sink is closed (R13, R77). -/
def ParamState.emit (evs : List ParamEvent) (s : ParamState) : ParamState :=
  { s with trace := s.trace ++ evs, untaken := if s.sinkReady then s.untaken else s.untaken + evs.length }

/-- The frame reset (R172). -/
def ParamState.frameReset (cur : Nat) (s : ParamState) : ParamState :=
  { s with
    phase := .seek
    bits_consumed := 0
    bytes_consumed := 0
    byte_acc := 0
    enc_word := 0
    serial_acc := 0
    button_acc := 0
    last_period_length := 0
    bit_position := cur
    byte_position := cur
    portion_position := cur }

/-- Taking a fault (R220, R222, R224). -/
def ParamState.raiseFault (f : Err) (s : ParamState) : ParamState := { s with err := f, ctl := .halt }

/-! ## The commit (R191) -/

/-- An accepted HEADER of bit `b` that brings the count to `n` (R176, R178, R180 to R187). -/
def paramHeader (p : Params) (b : BitVec 1) (pe n : Nat) (s : ParamState) : ParamState :=
  let acc := shiftInBit s.byte_acc b
  let m := Width.fit p.BYTES_W (s.bytes_consumed + 1)
  let enc := if n % 8 = 0 ∧ m ≤ 4 then insertByte s.enc_word m acc else s.enc_word
  let serial := if 32 < n ∧ n ≤ 60 then insertSerialBit s.serial_acc n b else s.serial_acc
  let button := if 60 < n ∧ n ≤ 64 then insertButtonBit s.button_acc n b else s.button_acc
  let events : List ParamEvent :=
    [⟨.bit, s.bit_position, pe, b.toNat⟩] ++
    (if n % 8 = 0 then [⟨.byte, s.byte_position, pe, acc.toNat⟩, ⟨.raw, s.byte_position, pe, acc.toNat⟩] else []) ++
    (if n = 32 then [⟨.portion .enc, s.portion_position, pe, enc.toNat⟩] else []) ++
    (if n = 60 then [⟨.portion .serial, s.portion_position, pe, serial.toNat⟩] else []) ++
    (if n = 64 then [⟨.portion .button, s.portion_position, pe, button.toNat⟩] else [])
  { s.emit events with
    phase := .reading
    bits_consumed := n
    bytes_consumed := if n % 8 = 0 then m else s.bytes_consumed
    byte_acc := if n % 8 = 0 then 0 else acc
    enc_word := if n = 32 then 0 else enc
    serial_acc := serial
    button_acc := button
    bit_position := pe
    byte_position := if n % 8 = 0 then pe else s.byte_position
    portion_position := if n = 32 ∨ n = 60 ∨ n = 64 then pe else s.portion_position
    last_period_length := pe - s.p_start }

/-- An accepted FRAME_END of bit `b` that brings the count to `n` (R177 to R179). -/
def paramFrameEnd (p : Params) (b : BitVec 1) (n : Nat) (s : ParamState) : ParamState :=
  { s.emit [⟨.bit, s.bit_position, p.endpoint s.bit_position s.last_period_length, b.toNat⟩] with
    phase := .finishing
    bits_consumed := n
    byte_acc := shiftInBit s.byte_acc b }

/-- The commit of R191, on the state it classifies in. -/
def paramClassified (p : Params) (pe : Nat) (s : ParamState) : Flow ParamState :=
  let b := bitValueWith p.THRESHOLD_ARITH s.p_start s.p_mid s.cfg_rate
  match classifyWith p.THRESHOLD_ARITH s.p_start s.p_mid pe s.cfg_rate s.bits_consumed s.phase with
  | .reject => .done (s.frameReset pe)
  | .header =>
    if Width.isFull p.BITS_W s.bits_consumed then .raised (s.raiseFault .countOverflow)
    else .done (paramHeader p b pe (s.bits_consumed + 1) s)
  | .frameEnd =>
    if Width.isFull p.BITS_W s.bits_consumed then .raised (s.raiseFault .countOverflow)
    else .done (paramFrameEnd p b (s.bits_consumed + 1) s)

/-- `Commit(ps, pm, pe)` at any parameters (R171, R191). -/
def paramCommit (p : Params) (pe : Nat) (s : ParamState) : Flow ParamState :=
  paramClassified p pe (if s.phase = .finishing then s.frameReset s.p_start else s)

/-! ## The step (R15, R88) -/

/-- EDGE.END at any parameters (R127). -/
def paramEdgeEnd (p : Params) (pe : Nat) (s : ParamState) : ParamState :=
  match paramCommit p pe s with
  | .done t => { t with p_start := pe, ctl := .waitMid }
  | .raised t => t

/-- What an offered token does, by the operation map of R88. -/
def paramToken (p : Params) (t : ParamToken) (s : ParamState) : Host.Outcome ParamState Fault Refusal :=
  match s.ctl with
  | .idle =>
    match t.kind with
    | .edge | .reserved => .next s.consume
    | .cfg => .next { s.consume with cfg_rate := p.rateOf t, cfg_pol := Polarity.ofBit t.l }
    | .start =>
      if s.cfg_rate = 0 then .next (s.consume.raiseFault .configError)
      else .next { s.consume.frameReset 0 with ctl := .waitSync }
  | .waitSync =>
    match t.kind with
    | .edge =>
      if Level.ofBit t.l = s.cfg_pol.activeLevel then
        .next { s.consume.frameReset (p.sampleOf t) with p_start := p.sampleOf t, ctl := .waitMid }
      else .next s.consume
    | .start | .cfg | .reserved => .next s.consume
  | .waitMid =>
    match t.kind with
    | .edge => .next { s.consume with p_mid := p.sampleOf t, ctl := .waitEnd }
    | .start | .cfg | .reserved => .next s.consume
  | .waitEnd =>
    match t.kind with
    | .edge => .next (paramEdgeEnd p (p.sampleOf t) s.consume)
    | .start | .cfg | .reserved => .next s.consume
  | .halt => .next s
  | .reserved5 | .reserved6 | .reserved7 => .fault .reservedCtl

/-- One step of the block at any parameters (R15, R77, R133). -/
def paramStep (p : Params) (s : ParamState) : Host.Outcome ParamState Fault Refusal :=
  if s.untaken ≠ 0 then .next s
  else
    match s.tokens with
    | [] => .next s
    | t :: _ => paramToken p t s

/-! ## This hardware's state as one of the parametric block -/

/-- This hardware's token word as a record (R80). -/
def tokenRecord (w : TokenWord) : ParamToken := ⟨tokenKind w, tokenL w, (tokenPayload w).toNat⟩

/-- This hardware's event as a record (R90). -/
def eventRecord : Event → ParamEvent
  | .bit a b v => ⟨.bit, a.toNat, b.toNat, v.toNat⟩
  | .byte a b v => ⟨.byte, a.toNat, b.toNat, v.toNat⟩
  | .raw a b v => ⟨.raw, a.toNat, b.toNat, v.toNat⟩
  | .enc a b v => ⟨.portion .enc, a.toNat, b.toNat, v.toNat⟩
  | .serial a b v => ⟨.portion .serial, a.toNat, b.toNat, v.toNat⟩
  | .button a b v => ⟨.portion .button, a.toNat, b.toNat, v.toNat⟩

/-- This hardware's state as a state of the parametric block: every register by its value. -/
def State.toParam (s : State) : ParamState where
  cfg_rate := s.cfg_rate.toNat
  cfg_pol := s.cfg_pol
  ctl := s.ctl
  err := s.err
  p_start := s.p_start.toNat
  p_mid := s.p_mid.toNat
  phase := s.phase
  bits_consumed := s.bits_consumed.toNat
  bytes_consumed := s.bytes_consumed.toNat
  byte_acc := s.byte_acc
  enc_word := s.enc_word
  serial_acc := s.serial_acc
  button_acc := s.button_acc
  bit_position := s.bit_position.toNat
  byte_position := s.byte_position.toNat
  portion_position := s.portion_position.toNat
  last_period_length := s.last_period_length.toNat
  tokens := s.tokens.map tokenRecord
  trace := s.trace.map eventRecord
  untaken := s.untaken
  sinkReady := s.sinkReady

/-- An outcome of this hardware as one of the parametric block. -/
def outcomeToParam : Host.Outcome State Fault Refusal → Host.Outcome ParamState Fault Refusal
  | .next s => .next s.toParam
  | .fault f => .fault f
  | .refused r => .refused r

end Sys2Proof.Machine
end

