-- ==== Sys2Proof/Machine/HostPort.lean ====
section
/-! DEFINITION. HostPort: what the host can do between two steps (20_memory.md R76 to R79; log 4, log 5, log 6). It writes no
register: configuration and edges reach the block as tokens (R79). -/

namespace Sys2Proof.Machine

/-- An act of the host between two steps. -/
inductive HostAct
  /-- Offer one more token, behind those already offered (R70). -/
  | offer (w : TokenWord)
  /-- Take the oldest event not yet taken (R76, R77). -/
  | takeEvent
  /-- Open the event sink: every event is taken now and as it comes (R77). -/
  | openSink
  /-- Close the event sink: events wait until they are taken (R77). -/
  | closeSink
  /-- Pulse hardware reset (R78, R250). -/
  | pulseReset
  deriving DecidableEq, Repr

/-- The state after an act of the host. -/
def State.hostAct (s : State) : HostAct → State
  | .offer w => { s with tokens := s.tokens ++ [w] }
  | .takeEvent => { s with untaken := s.untaken - 1 }
  | .openSink => { s with untaken := 0, sinkReady := true }
  | .closeSink => { s with sinkReady := false }
  | .pulseReset => s.hardwareReset

end Sys2Proof.Machine
end

