-- ==== Sys2Proof/Machine/Strict.lean ====
section
/-! DEFINITION. Strict: the refusal that 30_encoding.md R85 and 60_exceptions.md R237 ask of a model, beside the hardware's own
step, which ignores reserved bits (log 1). -/

namespace Sys2Proof.Machine

/-- Why a token has no meaning in the source: its kind is the reserved one, or a reserved header bit is set (R85, R237). -/
def tokenRefusal (w : TokenWord) : Option Refusal :=
  if tokenKind w = .reserved then some .reservedKind
  else if tokenReserved w ≠ 0#5 then some .reservedHeaderBits
  else none

/-- Whether a control state consumes tokens: HALT holds them, and the reserved states are the model's fault (R88, R123). -/
def consumesTokens : Ctl → Bool
  | .idle | .waitSync | .waitMid | .waitEnd => true
  | .halt | .reserved5 | .reserved6 | .reserved7 => false

/-- The refusal due in a state: the next step would consume a token without a meaning (R85, R132, R237). -/
def State.refusal (s : State) : Option Refusal :=
  if s.backpressured || !consumesTokens s.ctl then none
  else
    match s.tokens with
    | [] => none
    | w :: _ => tokenRefusal w

/-- One step of a model that refuses a stream holding a token without a meaning (R85, R237), and is the hardware's step on every
other. -/
def stepStrict (s : State) : Host.Outcome State Fault Refusal :=
  match s.refusal with
  | some r => .refused r
  | none => step s

end Sys2Proof.Machine
end

