-- ==== Sys2Proof/Safety.lean ====
section
/-! DEFINITION. Safety: how a run ends, what the host owes, the invariants of a run, and a frame seen as the list of its bits. These
are the terms the statements use; no meaning reads them. -/

namespace Sys2Proof.Machine

/-! ## Runs (R76, R223, D39) -/

/-- How a run that has come to a state stands (R223, D39). -/
inductive RunStatus
  /-- The host has no further token and the block is not in HALT: a normal end. -/
  | ended
  /-- The block is in HALT: a fault outcome, never a normal end. -/
  | faulted (f : Err)
  /-- A token is still offered. -/
  | running
  deriving DecidableEq, Repr

/-- How a run stands (R223, D39). -/
def State.runStatus (s : State) : RunStatus :=
  if s.ctl = .halt then .faulted s.err else if s.tokens = [] then .ended else .running

/-- The states that power-on reset, the host's acts and the block's steps can lead to. -/
inductive Reachable : State → Prop
  | reset : Reachable State.reset
  | host {s : State} (a : HostAct) : Reachable s → Reachable (s.hostAct a)
  | step {s t : State} : Reachable s → step s = .next t → Reachable t

/-- The samples of the edges among offered tokens, in order (R82). -/
def edgeSamples (ts : List TokenWord) : List Sample :=
  ts.filterMap fun w => if tokenKind w = .edge then some (tokenPayload w) else none

/-- The most recent edge of the current period, in a control state that holds one (R24, R49). -/
def State.lastEdge (s : State) : Option Sample :=
  match s.ctl with
  | .waitMid => some s.p_start
  | .waitEnd => some s.p_mid
  | .idle | .waitSync | .halt | .reserved5 | .reserved6 | .reserved7 => none

/-- The host keeps its duty of strictly increasing edges (R76): those offered increase, the first lies after the last one taken, and
a mid edge lies after its period's start. -/
structure EdgesIncrease (s : State) : Prop where
  offered : (edgeSamples s.tokens).Pairwise fun a b => a.toNat < b.toNat
  afterLast : ∀ l e, s.lastEdge = some l → e ∈ edgeSamples s.tokens → l.toNat < e.toNat
  midAfterStart : s.ctl = .waitEnd → s.p_start.toNat < s.p_mid.toNat

/-! ## Invariants between steps (R24, R26, R45, R153) -/

/-- A control state in which a session runs (R24). -/
def inSession : Ctl → Bool
  | .waitSync | .waitMid | .waitEnd => true
  | .idle | .halt | .reserved5 | .reserved6 | .reserved7 => false

/-- The control registers: no reserved `ctl` (R24), `err` set exactly in HALT (R26, R223), a rate in every session (R153), and no
frame begun before the synchronizing edge (R252, R253). -/
structure ControlOk (s : State) : Prop where
  legal : s.ctl ≠ .reserved5 ∧ s.ctl ≠ .reserved6 ∧ s.ctl ≠ .reserved7
  faultHalts : s.err = .none ↔ s.ctl ≠ .halt
  rate : inSession s.ctl = true → s.cfg_rate ≠ 0
  fresh : s.ctl = .idle ∨ s.ctl = .waitSync → s.phase = .seek ∧ s.bits_consumed = 0

/-- The frame registers: items 1 to 7 of R45, where they speak of registers, with the bound on enc_word before bit 32. -/
structure FrameOk (s : State) : Prop where
  seek : s.phase = .seek → s.bits_consumed.toNat = 0
  reading : s.phase = .reading → 1 ≤ s.bits_consumed.toNat
  finishing : s.phase = .finishing → 66 ≤ s.bits_consumed.toNat
  bytes : s.phase ≠ .finishing → s.bytes_consumed.toNat = s.bits_consumed.toNat / 8
  byteAcc : s.phase ≠ .finishing → s.byte_acc.toNat % 2 ^ (8 - s.bits_consumed.toNat % 8) = 0
  encDone : 32 ≤ s.bits_consumed.toNat → s.enc_word = 0
  encLanes : s.bits_consumed.toNat < 32 → s.enc_word.toNat < 2 ^ (8 * (s.bits_consumed.toNat / 8))
  serial : s.bits_consumed.toNat ≤ 60 → s.serial_acc.toNat < 2 ^ (s.bits_consumed.toNat - 32)
  button : s.bits_consumed.toNat ≤ 64 → s.button_acc.toNat < 2 ^ (s.bits_consumed.toNat - 60)

/-- What a fault leaves: CONFIG_ERROR without a rate and before any frame (R222), COUNT_OVERFLOW in READING with a full counter
(R224). -/
structure FaultOk (s : State) : Prop where
  config : s.err = .configError → s.cfg_rate = 0 ∧ s.phase = .seek ∧ s.bits_consumed = 0
  overflow : s.err = .countOverflow → s.phase = .reading ∧ s.bits_consumed.toNat = 65535

/-- The markers: item 8 of R45 (its equation holds without the premise on edges), and no marker later than the bit marker. -/
structure MarkersOk (s : State) : Prop where
  atStart : s.ctl = .waitMid ∨ s.ctl = .waitEnd → s.phase ≠ .finishing → s.bit_position = s.p_start
  bitLe : s.bit_position.toNat ≤ s.p_start.toNat
  byteLe : s.byte_position.toNat ≤ s.bit_position.toNat
  portionLe : s.portion_position.toNat ≤ s.bit_position.toNat

/-- Item 9 of R45: in a frame with a bit, last_period_length is that of an in-range period (R144, R176); with none, it is 0 (R172). -/
structure LengthOk (s : State) : Prop where
  inRange : 1 ≤ s.bits_consumed.toNat → 1 ≤ s.last_period_length.toNat ∧
    s.cfg_rate.toNat ≤ 1000 * s.last_period_length.toNat ∧ 2500 * s.last_period_length.toNat ≤ 3 * s.cfg_rate.toNat
  cleared : s.bits_consumed.toNat = 0 → s.last_period_length = 0

/-! ## The output trace (R71, R72, R77, R190, R263) -/

/-- What `t` has emitted since `s` the host has taken with an open sink, and has all still to take with a closed one (R77, R261; the
count is the model's, log 5). -/
def LeavesToTake (s t : State) : Prop :=
  s.trace.length ≤ t.trace.length ∧ t.sinkReady = s.sinkReady ∧
    t.untaken = if s.sinkReady then s.untaken else s.untaken + (t.trace.length - s.trace.length)

/-- Span and value of a byte event. -/
def byteOf : Event → Option (Sample × Sample × BitVec 8)
  | .byte a b v => some (a, b, v)
  | .bit .. | .raw .. | .enc .. | .serial .. | .button .. => none

/-- Span and value of a raw-byte event. -/
def rawOf : Event → Option (Sample × Sample × BitVec 8)
  | .raw a b v => some (a, b, v)
  | .bit .. | .byte .. | .enc .. | .serial .. | .button .. => none

/-- The end of a bit event's span. -/
def bitStop : Event → Option Sample
  | .bit _ b _ => some b
  | .byte .. | .raw .. | .enc .. | .serial .. | .button .. => none

/-- The end of a portion event's span. -/
def portionStop : Event → Option Sample
  | .enc _ b _ => some b
  | .serial _ b _ => some b
  | .button _ b _ => some b
  | .bit .. | .byte .. | .raw .. => none

/-- The n-th raw byte has the value and span of the n-th byte event (R72, R102, R181). -/
def RawMirrorsBytes (tr : List Event) : Prop := tr.filterMap rawOf = tr.filterMap byteOf

/-- In a frame that is being read, the last span of each channel ends where the next one starts (R263). -/
structure SpansMeet (s : State) : Prop where
  bit : s.phase = .reading → (s.trace.filterMap bitStop).getLast? = some s.bit_position
  byte : s.phase = .reading → 8 ≤ s.bits_consumed.toNat →
    ((s.trace.filterMap byteOf).getLast?.map fun e => e.2.1) = some s.byte_position
  portion : s.phase = .reading → 32 ≤ s.bits_consumed.toNat →
    (s.trace.filterMap portionStop).getLast? = some s.portion_position

/-- How many events of a kind a trace holds. -/
def tally (k : EventKind) (tr : List Event) : Nat := tr.countP fun e => decide (Event.kind e = k)

/-- How many events of a kind a frame has emitted once it has accepted `n` bits by HEADER commits (R190). -/
def frameTally (n : Nat) : EventKind → Nat
  | .bit => n
  | .byte => n / 8
  | .raw => n / 8
  | .portion p => if portionBit p ≤ n then 1 else 0

/-- The frame that began when the trace had `from_` events has emitted what its count of bits says (R190). -/
def FrameTally (s : State) (from_ : Nat) : Prop :=
  from_ ≤ s.trace.length ∧ ∀ k, tally k (s.trace.drop from_) = frameTally s.bits_consumed.toNat k

/-! ## A frame as the list of its bits (R61 to R64) -/

/-- Bits read as a little-endian number, the first accepted bit least significant (R64). -/
def littleEndian : List (BitVec 1) → Nat
  | [] => 0
  | b :: bs => b.toNat + 2 * littleEndian bs

/-- The registers of a frame whose accepted bits, in arrival order, are `bs` (R61 to R64, R45). -/
structure FrameBits (s : State) (bs : List (BitVec 1)) : Prop where
  bits : s.bits_consumed.toNat = bs.length
  bytes : s.bytes_consumed.toNat = bs.length / 8
  byteAcc : s.byte_acc.toNat = littleEndian bs / 2 ^ (8 * (bs.length / 8)) * 2 ^ (8 - bs.length % 8)
  enc : s.enc_word.toNat = if bs.length < 32 then littleEndian bs % 2 ^ (8 * (bs.length / 8)) else 0
  serial : s.serial_acc.toNat = littleEndian bs / 2 ^ 32 % 2 ^ 28
  button : s.button_acc.toNat = littleEndian bs / 2 ^ 60 % 2 ^ 4

/-- The value of the byte that the last eight of `bs` complete (R64). -/
def lastByte (bs : List (BitVec 1)) : BitVec 8 := BitVec.ofNat 8 (littleEndian bs / 2 ^ (bs.length - 8))

/-- The events of the HEADER commit, ending at `pe`, that brings the frame's bits to `bs` with last bit `b`; spans start at the
state's markers (R64, R71, R190). -/
def headerEvents (s : State) (pe : Sample) (b : BitVec 1) (bs : List (BitVec 1)) : List Event :=
  [.bit s.bit_position pe b] ++
  (if bs.length % 8 = 0 then [.byte s.byte_position pe (lastByte bs), .raw s.byte_position pe (lastByte bs)] else []) ++
  (if bs.length = 32 then [.enc s.portion_position pe (BitVec.ofNat 32 (littleEndian bs))] else []) ++
  (if bs.length = 60 then [.serial s.portion_position pe (BitVec.ofNat 28 (littleEndian bs / 2 ^ 32))] else []) ++
  (if bs.length = 64 then [.button s.portion_position pe (BitVec.ofNat 4 (littleEndian bs / 2 ^ 60))] else [])

end Sys2Proof.Machine
end

