-- ==== Sys2Proof/Certificates/Slice0/Obligations.lean ====
section
/-! DEFINITION. Obligations: the statements for the provers, from the numbered rules of spec/. -/

open Sys2Proof Sys2Proof.Machine

/-! ## Encodings (30_encoding.md) -/

/-- Decoding the code of a well-formed instruction gives the instruction back, with every operand at every value. -/
def Obligations.DecodeOfEncode : Prop :=
  ∀ i : Instr, i.wf = true → decode (encode i) = .ok i

/-- An event word that decodes is the word of the emission it decodes to: no bit of it is dropped (R90 to R93). -/
def Obligations.EncodeOfDecodedEvent : Prop :=
  ∀ (w : EventWord) (i : Instr), decode (.event w) = .ok i → encode i = .event w

/-- R97: the word of an event has no reserved channel or META code, no reserved portion id, no reserved header bit set, and no value
bit above the width of its channel (R93). -/
def Obligations.EmittedWordsAreLegal : Prop :=
  ∀ e : Event, eventReserved e.word = 0 ∧
    ((eventCh e.word = 0b000 ∧ eventPid e.word = 0b00 ∧ (eventValue e.word).toNat < 2) ∨
     (eventCh e.word = 0b001 ∧ eventPid e.word = 0b00 ∧ (eventValue e.word).toNat < 2 ^ 8) ∨
     (eventCh e.word = 0b011 ∧ eventPid e.word = 0b00 ∧ (eventValue e.word).toNat < 2 ^ 8) ∨
     (eventCh e.word = 0b010 ∧ eventPid e.word = 0b00) ∨
     (eventCh e.word = 0b010 ∧ eventPid e.word = 0b01 ∧ (eventValue e.word).toNat < 2 ^ 28) ∨
     (eventCh e.word = 0b010 ∧ eventPid e.word = 0b10 ∧ (eventValue e.word).toNat < 2 ^ 4))

/-- R87: the key is ctl, kind and m; every key selects exactly one row of the operation map, and the decoder's operation for an
offered token is the one its key selects. -/
def Obligations.EveryKeySelectsOneOperation : Prop :=
  (∀ (c : Ctl) (a : Level) (w : TokenWord),
    dispatchKey c a w = c.code ++ w.extractLsb' 70 2 ++ (if tokenLevel w = a then 1#1 else 0#1)) ∧
  (∀ key : BitVec 6, ∃ op, dispatchMatches key = [op]) ∧
  ∀ (c : Ctl) (a : Level) (w : TokenWord),
    ∃ op, dispatchMatches (dispatchKey c a w) = [op] ∧ (decodeToken c a w).dispatchOp = some op

/-- Words written out from R105 and the vectors V-E1 to V-E12 decode to the operations they stand for. -/
def Obligations.WordsFromTheSpecDecode : Prop :=
  decodeToken .idle .high (0x80#8 ++ 0x00000000000F4240#64) = .cfg .activeHigh 1000000#64 ∧
  decodeToken .idle .high (0xA0#8 ++ 0x000000000003D090#64) = .cfg .activeLow 250000#64 ∧
  decodeToken .idle .high (0x40#8 ++ 0x0000000000000000#64) = .start ∧
  decodeToken .waitSync .high (0x20#8 ++ 0x00000000000001F4#64) = .edgeSync .high 500#64 ∧
  decodeToken .waitMid .high (0x00#8 ++ 0x0000000000000320#64) = .edgeMid .low 800#64 ∧
  decode (.event (0x40#8 ++ 0x00000000000001F4#64 ++ 0x0000000000008B74#64 ++ 0x55555555#32)) =
    .ok (.evPortionEnc 500#64 35700#64 0x55555555#32) ∧
  decode (.event (0x48#8 ++ 0x0000000000008B74#64 ++ 0x00000000000103C4#64 ++ 0x05555555#32)) =
    .ok (.evPortionSerial 35700#64 66500#64 0x5555555#28) ∧
  decode (.verdict 0b01#2 1600#64) = .ok (.header 1600#64)

/-! ## Steps (R15, R77, R133, R236) -/

/-- With every event taken, a step runs the operation that the offered token decodes to (R15, R87). The field `untaken` is the
model's form of backpressure (log 5). -/
def Obligations.StepRunsDecodedToken : Prop :=
  ∀ (s : State) (w : TokenWord) (rest : List TokenWord) (i : Instr), s.untaken = 0 → s.tokens = w :: rest →
    decode (.token s.ctl s.cfg_pol.activeLevel w) = .ok i → step s = exec i s

/-- Backpressure (R77, R133, R236, R261): while an event waits to be taken, or no token is offered, the step changes nothing; and every
step, every end edge, every HEADER and every FRAME_END leaves each event it emits to be taken where the sink is closed, and none where
it is open. The form of waiting, and the fields `untaken` and `sinkReady`, are the model's choices (log 4, log 5). -/
def Obligations.StepHoldsOrWaits : Prop :=
  (∀ s : State, s.untaken ≠ 0 ∨ s.tokens = [] → step s = .next s) ∧
  (∀ s t : State, step s = .next t → LeavesToTake s t) ∧
  ∀ (level : Level) (pe : Sample) (s t : State),
    exec (.edgeEnd level pe) s = .next t ∨ exec (.header pe) s = .next t ∨ exec (.frameEnd pe) s = .next t → LeavesToTake s t

/-! ## Dispatch operations (40_edge_intake.md) -/

/-- R121: CFG in IDLE latches the rate and the polarity and writes nothing else. -/
def Obligations.CfgLatchesRateAndPolarity : Prop :=
  (∀ (a : Level) (w : TokenWord), tokenKind w = .cfg →
    decodeToken .idle a w = .cfg (Polarity.ofBit (tokenL w)) (tokenPayload w)) ∧
  (∀ rate : Rate, encode (.cfg .activeHigh rate) = .token .idle .high (0x80#8 ++ rate) ∧
    encode (.cfg .activeLow rate) = .token .idle .high (0xA0#8 ++ rate)) ∧
  ∀ (pol : Polarity) (rate : Rate) (s : State),
    exec (.cfg pol rate) s = .next { s with tokens := s.tokens.tail, cfg_rate := rate, cfg_pol := pol }

/-- R122: START with a rate makes a frame reset at sample 0 and begins the session. -/
def Obligations.StartWithRateBeginsSession : Prop :=
  (∀ (a : Level) (w : TokenWord), tokenKind w = .start → decodeToken .idle a w = .start) ∧
  encode .start = .token .idle .high 0x400000000000000000#72 ∧
  ∀ s : State, s.cfg_rate ≠ 0 →
    exec .start s = .next { s with
      tokens := s.tokens.tail, ctl := .waitSync, phase := .seek, bits_consumed := 0, bytes_consumed := 0, byte_acc := 0,
      enc_word := 0, serial_acc := 0, button_acc := 0, last_period_length := 0, bit_position := 0, byte_position := 0,
      portion_position := 0 }

/-- R222: START without a rate raises CONFIG_ERROR: err and ctl are written and nothing else is. -/
def Obligations.StartWithoutRateRaisesConfigError : Prop :=
  (∀ s : State, s.cfg_rate = 0 →
    exec .start s = .next { s with tokens := s.tokens.tail, err := .configError, ctl := .halt }) ∧
  ∃ t, exec .start State.reset = .next t ∧ t.status = 0b1000001#7

/-- R123, R124: an edge in IDLE and an edge of the wrong direction in WAIT_SYNC are consumed and change nothing. -/
def Obligations.DroppedAndSkippedEdgesChangeNothing : Prop :=
  (∀ (a : Level) (w : TokenWord), tokenKind w = .edge →
    decodeToken .idle a w = .edgeDrop (tokenLevel w) (tokenPayload w)) ∧
  (∀ (a : Level) (w : TokenWord), tokenKind w = .edge → tokenLevel w ≠ a →
    decodeToken .waitSync a w = .edgeSkip (tokenLevel w) (tokenPayload w)) ∧
  ∀ (level : Level) (sample : Sample) (s : State),
    exec (.edgeDrop level sample) s = .next { s with tokens := s.tokens.tail } ∧
    exec (.edgeSkip level sample) s = .next { s with tokens := s.tokens.tail }

/-- R134: a CFG or a START in a session is consumed and changes nothing. -/
def Obligations.CfgAndStartIgnoredInSession : Prop :=
  (∀ (c : Ctl) (a : Level) (w : TokenWord), c = .waitSync ∨ c = .waitMid ∨ c = .waitEnd →
    (tokenKind w = .cfg → decodeToken c a w = .cfgIgnored c.cc (tokenPolarity w) (tokenPayload w)) ∧
    (tokenKind w = .start → decodeToken c a w = .startIgnored c.cc)) ∧
  ∀ (cc : BitVec 2) (pol : Polarity) (rate : Rate) (s : State),
    exec (.cfgIgnored cc pol rate) s = .next { s with tokens := s.tokens.tail } ∧
    exec (.startIgnored cc) s = .next { s with tokens := s.tokens.tail }

/-- R132 for the hardware: a token of the reserved kind, in every state but HALT, is consumed and changes nothing. -/
def Obligations.ReservedKindConsumedWithNoEffect : Prop :=
  (∀ (c : Ctl) (a : Level) (w : TokenWord), c = .idle ∨ c = .waitSync ∨ c = .waitMid ∨ c = .waitEnd →
    tokenKind w = .reserved → decodeToken c a w = .rsv c.cc) ∧
  ∀ (cc : BitVec 2) (s : State), exec (.rsv cc) s = .next { s with tokens := s.tokens.tail }

/-- R85, R237: the strict step refuses a token of the reserved kind and one with a reserved header bit set, where the next step would
consume it, and is the hardware's step on every token with neither. -/
def Obligations.StrictStepRefusesReservedTokens : Prop :=
  ∀ (s : State) (w : TokenWord) (rest : List TokenWord), s.tokens = w :: rest →
    (s.untaken = 0 → s.ctl = .idle ∨ s.ctl = .waitSync ∨ s.ctl = .waitMid ∨ s.ctl = .waitEnd →
      (tokenKind w = .reserved → stepStrict s = .refused .reservedKind) ∧
      (tokenKind w ≠ .reserved → tokenReserved w ≠ 0 → stepStrict s = .refused .reservedHeaderBits)) ∧
    (tokenKind w ≠ .reserved → tokenReserved w = 0 → stepStrict s = step s)

/-- R223 and HOLD of R123: in HALT every token is held, nothing is emitted and nothing changes, until hardware reset; a run in HALT
is a fault outcome, and one that waits for a token in any other control state is not. -/
def Obligations.HaltIsStuckUntilHardwareReset : Prop :=
  (∀ (a : Level) (w : TokenWord), decodeToken .halt a w = .hold w) ∧
  (∀ (tok : TokenWord) (s : State), exec (.hold tok) s = .next s) ∧
  (∀ s : State, s.ctl = .halt →
    step s = .next s ∧ s.runStatus = .faulted s.err ∧ (s.hostAct .pulseReset).ctl = .idle) ∧
  ∀ s : State, s.ctl ≠ .halt → s.tokens = [] → step s = .next s ∧ s.runStatus = .ended

/-- R125: the synchronizing edge makes a frame reset at its sample, starts the first period there and emits nothing. -/
def Obligations.SyncEdgeStartsFirstPeriod : Prop :=
  (∀ (a : Level) (w : TokenWord), tokenKind w = .edge → tokenLevel w = a →
    decodeToken .waitSync a w = .edgeSync a (tokenPayload w)) ∧
  ∀ (level : Level) (sample : Sample) (s : State),
    exec (.edgeSync level sample) s = .next { s with
      tokens := s.tokens.tail, ctl := .waitMid, p_start := sample, phase := .seek, bits_consumed := 0, bytes_consumed := 0,
      byte_acc := 0, enc_word := 0, serial_acc := 0, button_acc := 0, last_period_length := 0, bit_position := sample,
      byte_position := sample, portion_position := sample }

/-- R126: the mid edge is captured, at either level. -/
def Obligations.MidEdgeIsCaptured : Prop :=
  (∀ (a : Level) (w : TokenWord), tokenKind w = .edge →
    decodeToken .waitMid a w = .edgeMid (tokenLevel w) (tokenPayload w)) ∧
  ∀ (level : Level) (sample : Sample) (s : State),
    exec (.edgeMid level sample) s = .next { s with tokens := s.tokens.tail, p_mid := sample, ctl := .waitEnd }

/-- R127: outside FINISHING and unless the count would overflow, EDGE.END runs the period operation its verdict names, then starts
the next period at the same edge. -/
def Obligations.EndEdgeCommitsItsVerdict : Prop :=
  (∀ (a : Level) (w : TokenWord), tokenKind w = .edge →
    decodeToken .waitEnd a w = .edgeEnd (tokenLevel w) (tokenPayload w)) ∧
  ∀ (level : Level) (pe : Sample) (s : State), s.phase ≠ .finishing →
    (classify s.p_start s.p_mid pe s.cfg_rate s.bits_consumed s.phase = .reject ∨ s.bits_consumed.toNat < 65535) →
    ∃ t, exec (decodeVerdict (classify s.p_start s.p_mid pe s.cfg_rate s.bits_consumed s.phase).code pe)
        { s with tokens := s.tokens.tail } = .next t ∧
      exec (.edgeEnd level pe) s = .next { t with p_start := pe, ctl := .waitMid }

/-- R173: FINISH_EXIT resets the frame at the period's start sample and emits nothing; the commit that follows a FRAME_END makes it
first and then goes on as from the state it leaves. -/
def Obligations.CommitAfterFrameEndResetsFirst : Prop :=
  ∀ (level : Level) (pe : Sample) (s : State),
    let t : State := { s with
      phase := .seek, bits_consumed := 0, bytes_consumed := 0, byte_acc := 0, enc_word := 0, serial_acc := 0, button_acc := 0,
      last_period_length := 0, bit_position := s.p_start, byte_position := s.p_start, portion_position := s.p_start }
    exec .finishExit s = .next t ∧
      (s.phase = .finishing → exec (.edgeEnd level pe) s = exec (.edgeEnd level pe) t)

/-- R224: an acceptable period when the counter is full raises COUNT_OVERFLOW: no event, no register but err and ctl. The same holds at
every finite BITS_W, and with BITS_W = inf the fault is never raised. -/
def Obligations.FullCounterRaisesOverflow : Prop :=
  (∀ (level : Level) (pe : Sample) (s : State), s.phase ≠ .finishing → s.bits_consumed.toNat = 65535 →
    classify s.p_start s.p_mid pe s.cfg_rate s.bits_consumed s.phase ≠ .reject →
    exec (.edgeEnd level pe) s = .next { s with tokens := s.tokens.tail, err := .countOverflow, ctl := .halt } ∧
    (s.phase = .reading →
      ({ s with tokens := s.tokens.tail, err := .countOverflow, ctl := .halt } : State).status = 0b1000110#7)) ∧
  (∀ (p : Params) (w pe : Nat) (s : ParamState), p.BITS_W = .bits w → s.phase ≠ .finishing → s.bits_consumed = 2 ^ w - 1 →
    classifyWith p.THRESHOLD_ARITH s.p_start s.p_mid pe s.cfg_rate s.bits_consumed s.phase ≠ .reject →
    paramEdgeEnd p pe s = { s with err := .countOverflow, ctl := .halt }) ∧
  ∀ (p : Params) (s t : ParamState), p.BITS_W = .inf → paramStep p s = .next t → t.err = .countOverflow → s.err = .countOverflow

/-- RESERVED.CTL, VERDICT.RESERVED and EV.META stop in the fault the spec asks of a model (R88; R89 with I5; R97 with I2). -/
def Obligations.ReservedOperationsFault : Prop :=
  (∀ (cc : BitVec 2) (tok : TokenWord) (s : State), exec (.reservedCtl cc tok) s = .fault .reservedCtl) ∧
  (∀ (pe : Sample) (s : State), exec (.verdictReserved pe) s = .fault .reservedVerdict) ∧
  (∀ (a b : Sample) (v : BitVec 32) (s : State), exec (.evMeta a b v) s = .fault .metaEmitted) ∧
  ∀ (s : State) (w : TokenWord) (rest : List TokenWord), s.untaken = 0 → s.tokens = w :: rest →
    s.ctl = .reserved5 ∨ s.ctl = .reserved6 ∨ s.ctl = .reserved7 → step s = .fault .reservedCtl

/-! ## The classifier (41_classifier.md) -/

/-- R141: a malformed period is REJECT, whatever the count and the phase. -/
def Obligations.MalformedPeriodIsReject : Prop :=
  ∀ (ps pm pe : Sample) (r : Rate) (n : BitVec 16) (ph : Phase),
    ¬(ps.toNat < pm.toNat ∧ pm.toNat < pe.toNat) → classify ps pm pe r n ph = .reject

/-- R144: HEADER is the verdict exactly of the well-formed periods in the inclusive window. -/
def Obligations.HeaderIffInWindow : Prop :=
  ∀ (ps pm pe : Sample) (r : Rate) (n : BitVec 16) (ph : Phase),
    classify ps pm pe r n ph = .header ↔
      (ps.toNat < pm.toNat ∧ pm.toNat < pe.toNat) ∧
        r.toNat ≤ 1000 * (pe.toNat - ps.toNat) ∧ 2500 * (pe.toNat - ps.toNat) ≤ 3 * r.toNat

/-- R147: the tests in their order, the first that holds deciding. -/
def Obligations.ClassifyInFull : Prop :=
  ∀ (ps pm pe : Sample) (r : Rate) (n : BitVec 16) (ph : Phase),
    classify ps pm pe r n ph =
      if ¬(ps.toNat < pm.toNat ∧ pm.toNat < pe.toNat) then .reject
      else if 1000 * (pe.toNat - ps.toNat) ≥ r.toNat ∧ 2500 * (pe.toNat - ps.toNat) ≤ 3 * r.toNat then .header
      else if n.toNat > 64 ∧ 10000 * (pm.toNat - ps.toNat) < 9 * r.toNat ∧ ph = .reading then .frameEnd
      else .reject

/-- R148: the bit is 0 exactly from a duty time of 0.0006 s on. -/
def Obligations.BitValueThreshold : Prop :=
  ∀ (ps pm : Sample) (r : Rate),
    bitValue ps pm r = if 5000 * ((pm.toNat : Int) - ps.toNat) ≥ 3 * r.toNat then 0#1 else 1#1

/-- From R150: at 1000 samples a second no period is accepted. -/
def Obligations.NothingAcceptedAtOneKilohertz : Prop :=
  ∀ (ps pm pe : Sample) (n : BitVec 16) (ph : Phase), classify ps pm pe 1000#64 n ph = .reject

/-- R152: where the invariant of the frame registers holds, a commit that classifies with more than 64 bits is in READING, so the
phase test of FRAME_END never changes the verdict. -/
def Obligations.ReadingTestNeverDecides : Prop :=
  ∀ (s : State) (pe : Sample) (n : BitVec 16), FrameOk s → s.phase ≠ .finishing → 64 < s.bits_consumed.toNat →
    s.phase = .reading ∧ (malformed s.p_start.toNat s.p_mid.toNat pe.toNat = false → s.bits_consumed = n →
      classify s.p_start s.p_mid pe s.cfg_rate n s.phase ≠ .header →
      10000 * ((s.p_mid.toNat : Int) - s.p_start.toNat) < 9 * s.cfg_rate.toNat →
      classify s.p_start s.p_mid pe s.cfg_rate n s.phase = .frameEnd)

/-! ## Period operations (42_assembler.md) -/

/-- R172, R174: REJECT makes a frame reset at the period's end sample: every register of the frame, the three markers at that sample,
and nothing else; no event. -/
def Obligations.RejectResetsTheFrame : Prop :=
  ∀ (pe : Sample) (s : State), exec (.reject pe) s = .next { s with
      phase := .seek, bits_consumed := 0, bytes_consumed := 0, byte_acc := 0, enc_word := 0, serial_acc := 0, button_acc := 0,
      last_period_length := 0, bit_position := pe, byte_position := pe, portion_position := pe }

/-- R175, R176 and the frame of HEADER: the count, the bit event, the bit marker, the length and the phase; configuration, control,
captured edges and offered tokens are unchanged. Where `pe` lies before `p_start`, which R141 keeps from a HEADER commit, the length
modulo 2^64 is the model's choice (log 12). -/
def Obligations.HeaderBitLayerAndFrame : Prop :=
  ∀ (pe : Sample) (s : State), s.bits_consumed.toNat < 65535 → ∃ t, exec (.header pe) s = .next t ∧
    t.bits_consumed.toNat = s.bits_consumed.toNat + 1 ∧
    t.trace[s.trace.length]? = some (.bit s.bit_position pe (bitValue s.p_start s.p_mid s.cfg_rate)) ∧
    t.bit_position = pe ∧ t.last_period_length = pe - s.p_start ∧ t.phase = .reading ∧
    t.cfg_rate = s.cfg_rate ∧ t.cfg_pol = s.cfg_pol ∧ t.ctl = s.ctl ∧ t.err = s.err ∧ t.p_start = s.p_start ∧
    t.p_mid = s.p_mid ∧ t.tokens = s.tokens ∧ t.sinkReady = s.sinkReady

/-- R178, R180, R182: the byte register, the byte marker, the byte count and the encrypted word after a HEADER, for every `n`. With
`bytes_consumed` 8191, which no run reaches, the wrap to `m = 0` and the insertion in lane 0 are the model's choice (log 12). -/
def Obligations.HeaderByteLayer : Prop :=
  ∀ (pe : Sample) (s : State), s.bits_consumed.toNat < 65535 → ∃ t, exec (.header pe) s = .next t ∧
    let n := s.bits_consumed.toNat + 1
    let shifted := (s.byte_acc >>> 1) ||| ((bitValue s.p_start s.p_mid s.cfg_rate).setWidth 8 <<< 7)
    let m := (s.bytes_consumed + 1).toNat
    t.byte_acc = (if n % 8 = 0 then 0 else shifted) ∧
    t.byte_position = (if n % 8 = 0 then pe else s.byte_position) ∧
    t.bytes_consumed = (if n % 8 = 0 then s.bytes_consumed + 1 else s.bytes_consumed) ∧
    t.enc_word =
      (if n = 32 then 0
       else if n % 8 = 0 ∧ m ≤ 4 then s.enc_word ||| (shifted.setWidth 32 <<< (8 * (m - 1)))
       else s.enc_word)

/-- R184 to R187: the serial field, the button field and the portion marker after a HEADER, for every `n`. -/
def Obligations.HeaderPortionLayer : Prop :=
  ∀ (pe : Sample) (s : State), s.bits_consumed.toNat < 65535 → ∃ t, exec (.header pe) s = .next t ∧
    let n := s.bits_consumed.toNat + 1
    let b := bitValue s.p_start s.p_mid s.cfg_rate
    t.serial_acc = (if 32 < n ∧ n ≤ 60 then s.serial_acc ||| (b.setWidth 28 <<< (n - 33)) else s.serial_acc) ∧
    t.button_acc = (if 60 < n ∧ n ≤ 64 then s.button_acc ||| (b.setWidth 4 <<< (n - 61)) else s.button_acc) ∧
    t.portion_position = (if n = 32 ∨ n = 60 ∨ n = 64 then pe else s.portion_position)

/-- R71, R176, R178, R180 to R187: the events of a HEADER commit, with their spans and values, in their order. With
`bytes_consumed` 8191 at `n = 32`, which no run reaches, the value in lane 0 is the model's choice (log 12). -/
def Obligations.HeaderEventsInFull : Prop :=
  ∀ (pe : Sample) (s : State), s.bits_consumed.toNat < 65535 → ∃ t, exec (.header pe) s = .next t ∧
    let n := s.bits_consumed.toNat + 1
    let b := bitValue s.p_start s.p_mid s.cfg_rate
    let shifted := (s.byte_acc >>> 1) ||| (b.setWidth 8 <<< 7)
    let m := (s.bytes_consumed + 1).toNat
    t.trace = s.trace ++ [.bit s.bit_position pe b] ++
      (if n % 8 = 0 then [.byte s.byte_position pe shifted, .raw s.byte_position pe shifted] else []) ++
      (if n = 32 then
        [.enc s.portion_position pe
          (if m ≤ 4 then s.enc_word ||| (shifted.setWidth 32 <<< (8 * (m - 1))) else s.enc_word)] else []) ++
      (if n = 60 then [.serial s.portion_position pe (s.serial_acc ||| (b.setWidth 28 <<< 27))] else []) ++
      (if n = 64 then [.button s.portion_position pe (s.button_acc ||| (b.setWidth 4 <<< 3))] else [])

/-- R177 to R179: a FRAME_END emits only its bit event, with the back-dated end, shifts the byte register, enters FINISHING and writes
nothing else of the block, even where the count is a multiple of 8. The count `k` of events still to be taken is the model's own
(log 5); `StepHoldsOrWaits` says what it is. -/
def Obligations.FrameEndEmitsOnlyItsBit : Prop :=
  ∀ (pe : Sample) (s : State), s.bits_consumed.toNat < 65535 →
    ∃ k, exec (.frameEnd pe) s = .next { s with
      bits_consumed := s.bits_consumed + 1
      phase := .finishing
      byte_acc := (s.byte_acc >>> 1) ||| ((bitValue s.p_start s.p_mid s.cfg_rate).setWidth 8 <<< 7)
      trace := s.trace ++ [.bit s.bit_position (s.bit_position + s.last_period_length)
        (bitValue s.p_start s.p_mid s.cfg_rate)]
      untaken := k }

/-- R175: with a full counter, a HEADER and a FRAME_END raise COUNT_OVERFLOW and do nothing else. -/
def Obligations.AcceptedPeriodWithFullCounter : Prop :=
  ∀ (pe : Sample) (s : State), s.bits_consumed.toNat = 65535 →
    exec (.header pe) s = .next { s with err := .countOverflow, ctl := .halt } ∧
    exec (.frameEnd pe) s = .next { s with err := .countOverflow, ctl := .halt }

/-- Each event row of the table appends its one event to the trace and writes no register (R13). The row as an instruction, and the
field `untaken`, are the model's (log 9, log 5). -/
def Obligations.EventRowsAppendOneEvent : Prop :=
  ∀ (a b : Sample) (s : State) (v1 : BitVec 1) (v4 : BitVec 4) (v8 : BitVec 8) (v28 : BitVec 28) (v32 : BitVec 32),
    let put (e : Event) : Host.Outcome State Fault Refusal :=
      .next { s with trace := s.trace ++ [e], untaken := if s.sinkReady then s.untaken else s.untaken + 1 }
    exec (.evBit a b v1) s = put (.bit a b v1) ∧
    exec (.evByte a b v8) s = put (.byte a b v8) ∧
    exec (.evRaw a b v8) s = put (.raw a b v8) ∧
    exec (.evPortionEnc a b v32) s = put (.enc a b v32) ∧
    exec (.evPortionSerial a b v28) s = put (.serial a b v28) ∧
    exec (.evPortionButton a b v4) s = put (.button a b v4)

/-! ## What any step may do -/

/-- R71, R72: a step appends at most one bit, byte, raw byte and portion event, in that order, behind all earlier events, and
appends any only where an end edge is committed. -/
def Obligations.OutputOrderOfAStep : Prop :=
  ∀ s t : State, step s = .next t →
    ∃ evs p, t.trace = s.trace ++ evs ∧ (evs.map Event.kind).Sublist [.bit, .byte, .raw, .portion p] ∧
      (evs ≠ [] → s.ctl = .waitEnd ∧ t.ctl = .waitMid)

/-- The transitions of the control sequencer (R24). -/
def Obligations.ControlTransitions : Prop :=
  ∀ s t : State, step s = .next t →
    t.ctl = s.ctl ∨ (s.ctl = .idle ∧ (t.ctl = .waitSync ∨ t.ctl = .halt)) ∨ (s.ctl = .waitSync ∧ t.ctl = .waitMid) ∨
      (s.ctl = .waitMid ∧ t.ctl = .waitEnd) ∨ (s.ctl = .waitEnd ∧ (t.ctl = .waitMid ∨ t.ctl = .halt))

/-- R21, R22, R260: only a step in IDLE writes the configuration. -/
def Obligations.ConfigurationFrozenOutsideIdle : Prop :=
  ∀ s t : State, step s = .next t → s.ctl ≠ .idle → t.cfg_rate = s.cfg_rate ∧ t.cfg_pol = s.cfg_pol

/-- R26: err changes only where a fault is raised, each by its own operation, which also halts. -/
def Obligations.ErrWrittenOnlyByFaults : Prop :=
  ∀ s t : State, step s = .next t → t.err ≠ s.err →
    t.ctl = .halt ∧ ((s.ctl = .idle ∧ s.cfg_rate = 0 ∧ t.err = .configError) ∨
      (s.ctl = .waitEnd ∧ s.bits_consumed.toNat = 65535 ∧ t.err = .countOverflow))

/-- R189: the phase machine, as a step shows it. FINISHING stands only where it stood, until the next end edge is committed, or is
entered from READING with more than 64 bits; READING is entered only by a committed end edge. -/
def Obligations.PhaseMachine : Prop :=
  ∀ s t : State, step s = .next t →
    (t.phase = .finishing → (s.phase = .finishing ∧ ¬(s.ctl = .waitEnd ∧ t.ctl = .waitMid)) ∨
      (s.phase = .reading ∧ s.ctl = .waitEnd ∧ t.ctl = .waitMid ∧ 64 < s.bits_consumed.toNat)) ∧
    (t.phase = .reading → s.phase = .reading ∨ (s.ctl = .waitEnd ∧ t.ctl = .waitMid)) ∧
    (t.phase = .seek → s.phase = .seek ∨ s.ctl = .idle ∨ s.ctl = .waitSync ∨ (s.ctl = .waitEnd ∧ t.ctl = .waitMid))

/-- R30: the bit counter stays, goes up by one without wrapping, starts again at 0 with a frame reset (phase SEEK), or, where the
commit of the next frame's first HEADER begins with a frame reset (entry phase FINISHING), at 1. -/
def Obligations.BitCounterNeverWraps : Prop :=
  ∀ s t : State, step s = .next t →
    t.bits_consumed = s.bits_consumed ∨ t.bits_consumed.toNat = s.bits_consumed.toNat + 1 ∨
      (t.bits_consumed = 0 ∧ t.phase = .seek) ∨ (s.phase = .finishing ∧ t.bits_consumed = 1 ∧ t.phase = .reading)

/-- R254: a frame with a bit loses it only at START, at a synchronizing edge, at a REJECT, or at the commit after a FRAME_END. -/
def Obligations.FrameResetTriggers : Prop :=
  ∀ s t : State, step s = .next t → t.bits_consumed.toNat < s.bits_consumed.toNat →
    (s.ctl = .idle ∧ t.ctl = .waitSync) ∨ (s.ctl = .waitSync ∧ t.ctl = .waitMid) ∨
      (s.ctl = .waitEnd ∧ (s.phase = .finishing ∨
        classify s.p_start s.p_mid t.p_start s.cfg_rate s.bits_consumed s.phase = .reject))

/-- From R44: the captured edges and the decoder registers are written only in the control states whose operations write them. -/
def Obligations.RegistersWrittenOnlyWhereTheTableSays : Prop :=
  ∀ s t : State, step s = .next t →
    (s.ctl ≠ .waitMid → t.p_mid = s.p_mid) ∧
    (s.ctl = .idle ∨ s.ctl = .waitMid ∨ s.ctl = .halt → t.p_start = s.p_start) ∧
    (s.ctl = .waitMid ∨ s.ctl = .halt →
      t.phase = s.phase ∧ t.bits_consumed = s.bits_consumed ∧ t.bytes_consumed = s.bytes_consumed ∧
      t.byte_acc = s.byte_acc ∧ t.enc_word = s.enc_word ∧ t.serial_acc = s.serial_acc ∧ t.button_acc = s.button_acc ∧
      t.bit_position = s.bit_position ∧ t.byte_position = s.byte_position ∧
      t.portion_position = s.portion_position ∧ t.last_period_length = s.last_period_length)

/-! ## Reset (R47, R250) -/

/-- R250: hardware reset at any time, and power-on, give every register its power-on value and an empty trace. -/
def Obligations.HardwareResetValues : Prop :=
  ∀ s t : State, t = State.reset ∨ t = s.hostAct .pulseReset →
    t.ctl = .idle ∧ t.err = .none ∧ t.cfg_rate = 0 ∧ t.cfg_pol = .activeHigh ∧ t.p_start = 0 ∧ t.p_mid = 0 ∧
    t.phase = .seek ∧ t.bits_consumed = 0 ∧ t.bytes_consumed = 0 ∧ t.byte_acc = 0 ∧ t.enc_word = 0 ∧ t.serial_acc = 0 ∧
    t.button_acc = 0 ∧ t.bit_position = 0 ∧ t.byte_position = 0 ∧ t.portion_position = 0 ∧ t.last_period_length = 0 ∧
    t.trace = [] ∧ t.status = 0#7

/-- The model's choices about a reset (log 5, log 6), which the spec leaves open: the host's offered tokens and its event sink stay
as they are, and no event of the discarded trace is left to take. -/
def Obligations.HardwareResetLeavesTheHost : Prop :=
  ∀ s : State,
    (s.hostAct .pulseReset).tokens = s.tokens ∧ (s.hostAct .pulseReset).sinkReady = s.sinkReady ∧
      (s.hostAct .pulseReset).untaken = 0

/-- The state after power-on reset has every invariant. -/
def Obligations.ResetHasEveryInvariant : Prop :=
  ControlOk State.reset ∧ FrameOk State.reset ∧ FaultOk State.reset ∧ MarkersOk State.reset ∧ LengthOk State.reset ∧
    RawMirrorsBytes State.reset.trace ∧ SpansMeet State.reset ∧ FrameBits State.reset [] ∧ FrameTally State.reset 0

/-! ## Invariants that every step keeps (R45) -/

/-- Every step keeps the control registers legal (R24, R26, R153). -/
def Obligations.StepKeepsControlOk : Prop :=
  ∀ s t : State, ControlOk s → step s = .next t → ControlOk t

/-- Every step keeps items 1 to 7 of R45. -/
def Obligations.StepKeepsFrameOk : Prop :=
  ∀ s t : State, FrameOk s → step s = .next t → FrameOk t

/-- Every step keeps what a fault leaves (R222, R224). -/
def Obligations.StepKeepsFaultOk : Prop :=
  ∀ s t : State, ControlOk s → FrameOk s → FaultOk s → step s = .next t → FaultOk t

/-- Every step keeps item 8 of R45 and the order of the markers, with no premise on the edges. -/
def Obligations.StepKeepsMarkersOk : Prop :=
  ∀ s t : State, MarkersOk s → step s = .next t → MarkersOk t

/-- Every step keeps item 9 of R45. -/
def Obligations.StepKeepsLengthOk : Prop :=
  ∀ s t : State, ControlOk s → LengthOk s → step s = .next t → LengthOk t

/-- Every step keeps the raw stream equal to the byte events (R72, R181), and the spans of each channel meeting (R263). -/
def Obligations.StepKeepsTraceInvariants : Prop :=
  ∀ s t : State, FrameOk s → step s = .next t →
    (RawMirrorsBytes s.trace → RawMirrorsBytes t.trace) ∧ (SpansMeet s → SpansMeet t)

/-- Every act of the host but a reset leaves every register and the trace as they are (R79), and every act, a reset included, keeps the
invariants. -/
def Obligations.HostActsKeepInvariants : Prop :=
  ∀ (s : State) (a : HostAct),
    (a ≠ .pulseReset → ∃ tokens untaken sinkReady,
      s.hostAct a = { s with tokens := tokens, untaken := untaken, sinkReady := sinkReady }) ∧
    (ControlOk s → ControlOk (s.hostAct a)) ∧ (FrameOk s → FrameOk (s.hostAct a)) ∧ (FaultOk s → FaultOk (s.hostAct a)) ∧
    (MarkersOk s → MarkersOk (s.hostAct a)) ∧ (LengthOk s → LengthOk (s.hostAct a)) ∧
    (RawMirrorsBytes s.trace → RawMirrorsBytes (s.hostAct a).trace) ∧ (SpansMeet s → SpansMeet (s.hostAct a))

/-- Every reachable state has every invariant, whatever the host offers, and its step stops in no fault (R45, R223, R225). -/
def Obligations.ReachableStatesAreSafe : Prop :=
  ∀ s : State, Reachable s →
    ControlOk s ∧ FrameOk s ∧ FaultOk s ∧ MarkersOk s ∧ LengthOk s ∧ RawMirrorsBytes s.trace ∧ SpansMeet s ∧
      ∃ t, step s = .next t

/-- R76: while the host keeps its duty of increasing edges, every step keeps the captured edges in order, and no period that ends is
malformed. -/
def Obligations.IncreasingEdgesAreNeverMalformed : Prop :=
  ∀ s t : State, EdgesIncrease s → step s = .next t →
    EdgesIncrease t ∧ (s.ctl = .waitEnd → t.ctl = .waitMid → malformed s.p_start.toNat s.p_mid.toNat t.p_start.toNat = false)

/-! ## A frame as the list of its bits (R61 to R64, R190) -/

/-- R64: a HEADER's bit extends the frame's list of bits by itself: every register is what R61 to R63 make of the longer list, and
the events carry its bytes and fields as the little-endian number the list is. -/
def Obligations.HeaderExtendsTheFrame : Prop :=
  ∀ (s : State) (bs : List (BitVec 1)) (pe : Sample), FrameBits s bs → bs.length < 65535 →
    let b := bitValue s.p_start s.p_mid s.cfg_rate
    ∃ t, exec (.header pe) s = .next t ∧ FrameBits t (bs ++ [b]) ∧
      t.trace = s.trace ++ headerEvents s pe b (bs ++ [b])

/-- R172, R254: every frame reset (of START with a rate, the synchronizing edge, REJECT and FINISH_EXIT) begins a frame with no bits,
nothing of it emitted. -/
def Obligations.FrameResetBeginsEmptyFrame : Prop :=
  ∀ (s t : State) (level : Level) (sample : Sample),
    (s.cfg_rate ≠ 0 ∧ exec .start s = .next t) ∨ exec (.edgeSync level sample) s = .next t ∨
      exec (.reject sample) s = .next t ∨ exec .finishExit s = .next t →
    FrameBits t [] ∧ t.trace = s.trace ∧ FrameTally t s.trace.length

/-- R190, items 1 and 2: a HEADER keeps the frame's tally: one bit event for each bit, one byte and one raw byte for each eight, and
each portion exactly once, from its own bit on. -/
def Obligations.HeaderKeepsTally : Prop :=
  ∀ (s : State) (from_ : Nat) (pe : Sample), FrameTally s from_ → s.bits_consumed.toNat < 65535 →
    ∃ t, exec (.header pe) s = .next t ∧ FrameTally t from_

/-- R190, item 3: a frame of 65 HEADER bits that a FRAME_END ends at bit 66 has emitted 66 bit events, 8 byte events, 8 raw bytes and
each of the three portions once. -/
def Obligations.CompleteFrameTally : Prop :=
  ∀ (s : State) (from_ : Nat) (pe : Sample), FrameTally s from_ → s.bits_consumed.toNat = 65 →
    ∃ t, exec (.frameEnd pe) s = .next t ∧ t.bits_consumed.toNat = 66 ∧
      tally .bit (t.trace.drop from_) = 66 ∧ tally .byte (t.trace.drop from_) = 8 ∧ tally .raw (t.trace.drop from_) = 8 ∧
      ∀ p, tally (.portion p) (t.trace.drop from_) = 1

/-! ## The parameters (R9) -/

/-- R9: this hardware is the parametric block at R9's "value for this hardware": those values are legal, its words are the parametric
block's, it starts in the same state, and each of its steps is the parametric block's, from every state. -/
def Obligations.HardwareIsTheParametricBlock : Prop :=
  Config.hardware.legal = true ∧
  (∀ w : TokenWord, ParamToken.ofWord 64 w.toNat = tokenRecord w) ∧
  (∀ e : Event, Config.hardware.eventWord (eventRecord e) = some e.word.toNat) ∧
  State.reset.toParam = ParamState.reset ∧
  ∀ s : State, paramStep Config.hardware s.toParam = outcomeToParam (step s)
end

