-- ==== Sys2Proof/Laws/Codes.lean ====
section
/-! SUPPORT. Codes: each code read back, and each field of a token word and an event word read back. -/

namespace Sys2Proof

@[simp] theorem Level.ofBit_bit (l : Level) : Level.ofBit l.bit = l := by cases l <;> rfl

@[simp] theorem Polarity.ofBit_bit (p : Polarity) : Polarity.ofBit p.bit = p := by cases p <;> rfl

@[simp] theorem Level.other_ne (l : Level) : l.other ≠ l := by cases l <;> decide

@[simp] theorem Ctl.ofCode_code (c : Ctl) : Ctl.ofCode c.code = c := by cases c <;> rfl

@[simp] theorem TokenKind.ofCode_code (k : TokenKind) : TokenKind.ofCode k.code = k := by cases k <;> rfl

@[simp] theorem TokenKind.code_ofCode (c : BitVec 2) : (TokenKind.ofCode c).code = c := by
  revert c; decide

theorem Ctl.code_injective {a b : Ctl} (h : a.code = b.code) : a = b := by
  have := congrArg Ctl.ofCode h
  simpa using this

/-- The control states of a session, by their `cc` (R88). -/
theorem Ctl.session_cases (cc : BitVec 2) :
    (cc = 0#2 ∧ Ctl.session cc = .idle) ∨ (cc = 1#2 ∧ Ctl.session cc = .waitSync) ∨
    (cc = 2#2 ∧ Ctl.session cc = .waitMid) ∨ (cc = 3#2 ∧ Ctl.session cc = .waitEnd) := by
  revert cc; decide

/-- The upper control states, by their `cc` (R88). -/
theorem Ctl.upper_cases (cc : BitVec 2) :
    (cc = 0#2 ∧ Ctl.upper cc = .halt) ∨ (cc = 1#2 ∧ Ctl.upper cc = .reserved5) ∨
    (cc = 2#2 ∧ Ctl.upper cc = .reserved6) ∨ (cc = 3#2 ∧ Ctl.upper cc = .reserved7) := by
  revert cc; decide

/-! ## The fields of a token word (R80) -/

/-- Where each bit of a token word comes from (R80). -/
theorem mkToken_getLsbD (k : TokenKind) (l : BitVec 1) (p : BitVec 64) (i : Nat) :
    (mkToken k l p).getLsbD i =
      if i < 64 then p.getLsbD i
      else if i < 69 then false
      else if i < 70 then l.getLsbD (i - 69)
      else k.code.getLsbD (i - 70) := by
  show (((k.code ++ l : BitVec (2 + 1)) ++ 0#5 : BitVec (2 + 1 + 5)) ++ p : BitVec (2 + 1 + 5 + 64)).getLsbD i = _
  simp only [BitVec.getLsbD_append, BitVec.getLsbD_zero]
  grind

@[simp] theorem tokenKind_mkToken (k : TokenKind) (l : BitVec 1) (p : BitVec 64) : tokenKind (mkToken k l p) = k := by
  have h : (mkToken k l p).extractLsb' 70 2 = k.code := by
    apply BitVec.eq_of_getLsbD_eq
    intro i hi
    simp only [BitVec.getLsbD_extractLsb', mkToken_getLsbD]
    grind
  rw [tokenKind, h, TokenKind.ofCode_code]

@[simp] theorem tokenL_mkToken (k : TokenKind) (l : BitVec 1) (p : BitVec 64) :
    tokenL (mkToken k l p) = l := by
  apply BitVec.eq_of_getLsbD_eq
  intro j hk
  simp only [tokenL, BitVec.getLsbD_extractLsb', mkToken_getLsbD]
  grind

@[simp] theorem tokenReserved_mkToken (k : TokenKind) (l : BitVec 1) (p : BitVec 64) :
    tokenReserved (mkToken k l p) = 0#5 := by
  apply BitVec.eq_of_getLsbD_eq
  intro j hk
  simp only [tokenReserved, BitVec.getLsbD_extractLsb', mkToken_getLsbD]
  grind

@[simp] theorem tokenPayload_mkToken (k : TokenKind) (l : BitVec 1) (p : BitVec 64) :
    tokenPayload (mkToken k l p) = p := by
  apply BitVec.eq_of_getLsbD_eq
  intro j hk
  simp only [tokenPayload, BitVec.getLsbD_extractLsb', mkToken_getLsbD]
  grind

/-! ## The fields of an event word (R90) -/

/-- Where each bit of an event word comes from (R90). -/
theorem mkEventWord_getLsbD (c : Channel) (q : BitVec 2) (a b : Sample) (v : BitVec 32) (i : Nat) :
    (mkEventWord c q a b v).getLsbD i =
      if i < 32 then v.getLsbD i
      else if i < 96 then b.getLsbD (i - 32)
      else if i < 160 then a.getLsbD (i - 96)
      else if i < 163 then false
      else if i < 165 then q.getLsbD (i - 163)
      else c.code.getLsbD (i - 165) := by
  show (((((c.code ++ q : BitVec (3 + 2)) ++ 0#3 : BitVec (3 + 2 + 3)) ++ a : BitVec (3 + 2 + 3 + 64)) ++ b :
    BitVec (3 + 2 + 3 + 64 + 64)) ++ v : BitVec (3 + 2 + 3 + 64 + 64 + 32)).getLsbD i = _
  simp only [BitVec.getLsbD_append, BitVec.getLsbD_zero]
  grind

@[simp] theorem eventCh_mkEventWord (c : Channel) (q : BitVec 2) (a b : Sample) (v : BitVec 32) :
    eventCh (mkEventWord c q a b v) = c.code := by
  apply BitVec.eq_of_getLsbD_eq
  intro j hk
  simp only [eventCh, BitVec.getLsbD_extractLsb', mkEventWord_getLsbD]
  grind

@[simp] theorem eventPid_mkEventWord (c : Channel) (q : BitVec 2) (a b : Sample) (v : BitVec 32) :
    eventPid (mkEventWord c q a b v) = q := by
  apply BitVec.eq_of_getLsbD_eq
  intro j hk
  simp only [eventPid, BitVec.getLsbD_extractLsb', mkEventWord_getLsbD]
  grind

@[simp] theorem eventReserved_mkEventWord (c : Channel) (q : BitVec 2) (a b : Sample) (v : BitVec 32) :
    eventReserved (mkEventWord c q a b v) = 0#3 := by
  apply BitVec.eq_of_getLsbD_eq
  intro j hk
  simp only [eventReserved, BitVec.getLsbD_extractLsb', mkEventWord_getLsbD]
  grind

@[simp] theorem eventStart_mkEventWord (c : Channel) (q : BitVec 2) (a b : Sample) (v : BitVec 32) :
    eventStart (mkEventWord c q a b v) = a := by
  apply BitVec.eq_of_getLsbD_eq
  intro j hk
  simp only [eventStart, BitVec.getLsbD_extractLsb', mkEventWord_getLsbD]
  grind

@[simp] theorem eventStop_mkEventWord (c : Channel) (q : BitVec 2) (a b : Sample) (v : BitVec 32) :
    eventStop (mkEventWord c q a b v) = b := by
  apply BitVec.eq_of_getLsbD_eq
  intro j hk
  simp only [eventStop, BitVec.getLsbD_extractLsb', mkEventWord_getLsbD]
  grind

@[simp] theorem eventValue_mkEventWord (c : Channel) (q : BitVec 2) (a b : Sample) (v : BitVec 32) :
    eventValue (mkEventWord c q a b v) = v := by
  apply BitVec.eq_of_getLsbD_eq
  intro j hk
  simp only [eventValue, BitVec.getLsbD_extractLsb', mkEventWord_getLsbD]
  grind

end Sys2Proof
end

