-- ==== Sys2Proof/Laws/State.lean ====
section
/-! SUPPORT. State: for each update of the state, what it makes of each field, true by definition. -/

namespace Sys2Proof.Machine

/-! ## Consuming a token -/

@[simp] theorem consume_cfg_rate (s : State) : (s.consume).cfg_rate = s.cfg_rate := rfl
@[simp] theorem consume_cfg_pol (s : State) : (s.consume).cfg_pol = s.cfg_pol := rfl
@[simp] theorem consume_ctl (s : State) : (s.consume).ctl = s.ctl := rfl
@[simp] theorem consume_err (s : State) : (s.consume).err = s.err := rfl
@[simp] theorem consume_p_start (s : State) : (s.consume).p_start = s.p_start := rfl
@[simp] theorem consume_p_mid (s : State) : (s.consume).p_mid = s.p_mid := rfl
@[simp] theorem consume_phase (s : State) : (s.consume).phase = s.phase := rfl
@[simp] theorem consume_bits_consumed (s : State) : (s.consume).bits_consumed = s.bits_consumed := rfl
@[simp] theorem consume_bytes_consumed (s : State) : (s.consume).bytes_consumed = s.bytes_consumed := rfl
@[simp] theorem consume_byte_acc (s : State) : (s.consume).byte_acc = s.byte_acc := rfl
@[simp] theorem consume_enc_word (s : State) : (s.consume).enc_word = s.enc_word := rfl
@[simp] theorem consume_serial_acc (s : State) : (s.consume).serial_acc = s.serial_acc := rfl
@[simp] theorem consume_button_acc (s : State) : (s.consume).button_acc = s.button_acc := rfl
@[simp] theorem consume_bit_position (s : State) : (s.consume).bit_position = s.bit_position := rfl
@[simp] theorem consume_byte_position (s : State) : (s.consume).byte_position = s.byte_position := rfl
@[simp] theorem consume_portion_position (s : State) : (s.consume).portion_position = s.portion_position := rfl
@[simp] theorem consume_last_period_length (s : State) : (s.consume).last_period_length = s.last_period_length := rfl
@[simp] theorem consume_tokens (s : State) : (s.consume).tokens = s.tokens.tail := rfl
@[simp] theorem consume_trace (s : State) : (s.consume).trace = s.trace := rfl
@[simp] theorem consume_untaken (s : State) : (s.consume).untaken = s.untaken := rfl
@[simp] theorem consume_sinkReady (s : State) : (s.consume).sinkReady = s.sinkReady := rfl

/-! ## Emitting an event -/

@[simp] theorem emit_cfg_rate (e : Event) (s : State) : (s.emit e).cfg_rate = s.cfg_rate := rfl
@[simp] theorem emit_cfg_pol (e : Event) (s : State) : (s.emit e).cfg_pol = s.cfg_pol := rfl
@[simp] theorem emit_ctl (e : Event) (s : State) : (s.emit e).ctl = s.ctl := rfl
@[simp] theorem emit_err (e : Event) (s : State) : (s.emit e).err = s.err := rfl
@[simp] theorem emit_p_start (e : Event) (s : State) : (s.emit e).p_start = s.p_start := rfl
@[simp] theorem emit_p_mid (e : Event) (s : State) : (s.emit e).p_mid = s.p_mid := rfl
@[simp] theorem emit_phase (e : Event) (s : State) : (s.emit e).phase = s.phase := rfl
@[simp] theorem emit_bits_consumed (e : Event) (s : State) : (s.emit e).bits_consumed = s.bits_consumed := rfl
@[simp] theorem emit_bytes_consumed (e : Event) (s : State) : (s.emit e).bytes_consumed = s.bytes_consumed := rfl
@[simp] theorem emit_byte_acc (e : Event) (s : State) : (s.emit e).byte_acc = s.byte_acc := rfl
@[simp] theorem emit_enc_word (e : Event) (s : State) : (s.emit e).enc_word = s.enc_word := rfl
@[simp] theorem emit_serial_acc (e : Event) (s : State) : (s.emit e).serial_acc = s.serial_acc := rfl
@[simp] theorem emit_button_acc (e : Event) (s : State) : (s.emit e).button_acc = s.button_acc := rfl
@[simp] theorem emit_bit_position (e : Event) (s : State) : (s.emit e).bit_position = s.bit_position := rfl
@[simp] theorem emit_byte_position (e : Event) (s : State) : (s.emit e).byte_position = s.byte_position := rfl
@[simp] theorem emit_portion_position (e : Event) (s : State) : (s.emit e).portion_position = s.portion_position := rfl
@[simp] theorem emit_last_period_length (e : Event) (s : State) : (s.emit e).last_period_length = s.last_period_length := rfl
@[simp] theorem emit_tokens (e : Event) (s : State) : (s.emit e).tokens = s.tokens := rfl
@[simp] theorem emit_trace (e : Event) (s : State) : (s.emit e).trace = s.trace ++ [e] := rfl
@[simp] theorem emit_untaken (e : Event) (s : State) : (s.emit e).untaken = if s.sinkReady then s.untaken else s.untaken + 1 := rfl
@[simp] theorem emit_sinkReady (e : Event) (s : State) : (s.emit e).sinkReady = s.sinkReady := rfl

/-! ## The frame reset -/

@[simp] theorem frameReset_cfg_rate (cur : Sample) (s : State) : (s.frameReset cur).cfg_rate = s.cfg_rate := rfl
@[simp] theorem frameReset_cfg_pol (cur : Sample) (s : State) : (s.frameReset cur).cfg_pol = s.cfg_pol := rfl
@[simp] theorem frameReset_ctl (cur : Sample) (s : State) : (s.frameReset cur).ctl = s.ctl := rfl
@[simp] theorem frameReset_err (cur : Sample) (s : State) : (s.frameReset cur).err = s.err := rfl
@[simp] theorem frameReset_p_start (cur : Sample) (s : State) : (s.frameReset cur).p_start = s.p_start := rfl
@[simp] theorem frameReset_p_mid (cur : Sample) (s : State) : (s.frameReset cur).p_mid = s.p_mid := rfl
@[simp] theorem frameReset_phase (cur : Sample) (s : State) : (s.frameReset cur).phase = .seek := rfl
@[simp] theorem frameReset_bits_consumed (cur : Sample) (s : State) : (s.frameReset cur).bits_consumed = 0 := rfl
@[simp] theorem frameReset_bytes_consumed (cur : Sample) (s : State) : (s.frameReset cur).bytes_consumed = 0 := rfl
@[simp] theorem frameReset_byte_acc (cur : Sample) (s : State) : (s.frameReset cur).byte_acc = 0 := rfl
@[simp] theorem frameReset_enc_word (cur : Sample) (s : State) : (s.frameReset cur).enc_word = 0 := rfl
@[simp] theorem frameReset_serial_acc (cur : Sample) (s : State) : (s.frameReset cur).serial_acc = 0 := rfl
@[simp] theorem frameReset_button_acc (cur : Sample) (s : State) : (s.frameReset cur).button_acc = 0 := rfl
@[simp] theorem frameReset_bit_position (cur : Sample) (s : State) : (s.frameReset cur).bit_position = cur := rfl
@[simp] theorem frameReset_byte_position (cur : Sample) (s : State) : (s.frameReset cur).byte_position = cur := rfl
@[simp] theorem frameReset_portion_position (cur : Sample) (s : State) : (s.frameReset cur).portion_position = cur := rfl
@[simp] theorem frameReset_last_period_length (cur : Sample) (s : State) : (s.frameReset cur).last_period_length = 0 := rfl
@[simp] theorem frameReset_tokens (cur : Sample) (s : State) : (s.frameReset cur).tokens = s.tokens := rfl
@[simp] theorem frameReset_trace (cur : Sample) (s : State) : (s.frameReset cur).trace = s.trace := rfl
@[simp] theorem frameReset_untaken (cur : Sample) (s : State) : (s.frameReset cur).untaken = s.untaken := rfl
@[simp] theorem frameReset_sinkReady (cur : Sample) (s : State) : (s.frameReset cur).sinkReady = s.sinkReady := rfl

/-! ## Taking a fault -/

@[simp] theorem raiseFault_cfg_rate (f : Err) (s : State) : (s.raiseFault f).cfg_rate = s.cfg_rate := rfl
@[simp] theorem raiseFault_cfg_pol (f : Err) (s : State) : (s.raiseFault f).cfg_pol = s.cfg_pol := rfl
@[simp] theorem raiseFault_ctl (f : Err) (s : State) : (s.raiseFault f).ctl = .halt := rfl
@[simp] theorem raiseFault_err (f : Err) (s : State) : (s.raiseFault f).err = f := rfl
@[simp] theorem raiseFault_p_start (f : Err) (s : State) : (s.raiseFault f).p_start = s.p_start := rfl
@[simp] theorem raiseFault_p_mid (f : Err) (s : State) : (s.raiseFault f).p_mid = s.p_mid := rfl
@[simp] theorem raiseFault_phase (f : Err) (s : State) : (s.raiseFault f).phase = s.phase := rfl
@[simp] theorem raiseFault_bits_consumed (f : Err) (s : State) : (s.raiseFault f).bits_consumed = s.bits_consumed := rfl
@[simp] theorem raiseFault_bytes_consumed (f : Err) (s : State) : (s.raiseFault f).bytes_consumed = s.bytes_consumed := rfl
@[simp] theorem raiseFault_byte_acc (f : Err) (s : State) : (s.raiseFault f).byte_acc = s.byte_acc := rfl
@[simp] theorem raiseFault_enc_word (f : Err) (s : State) : (s.raiseFault f).enc_word = s.enc_word := rfl
@[simp] theorem raiseFault_serial_acc (f : Err) (s : State) : (s.raiseFault f).serial_acc = s.serial_acc := rfl
@[simp] theorem raiseFault_button_acc (f : Err) (s : State) : (s.raiseFault f).button_acc = s.button_acc := rfl
@[simp] theorem raiseFault_bit_position (f : Err) (s : State) : (s.raiseFault f).bit_position = s.bit_position := rfl
@[simp] theorem raiseFault_byte_position (f : Err) (s : State) : (s.raiseFault f).byte_position = s.byte_position := rfl
@[simp] theorem raiseFault_portion_position (f : Err) (s : State) : (s.raiseFault f).portion_position = s.portion_position := rfl
@[simp] theorem raiseFault_last_period_length (f : Err) (s : State) : (s.raiseFault f).last_period_length = s.last_period_length := rfl
@[simp] theorem raiseFault_tokens (f : Err) (s : State) : (s.raiseFault f).tokens = s.tokens := rfl
@[simp] theorem raiseFault_trace (f : Err) (s : State) : (s.raiseFault f).trace = s.trace := rfl
@[simp] theorem raiseFault_untaken (f : Err) (s : State) : (s.raiseFault f).untaken = s.untaken := rfl
@[simp] theorem raiseFault_sinkReady (f : Err) (s : State) : (s.raiseFault f).sinkReady = s.sinkReady := rfl

/-! ## Hardware reset -/

@[simp] theorem hardwareReset_cfg_rate (s : State) : (s.hardwareReset).cfg_rate = State.reset.cfg_rate := rfl
@[simp] theorem hardwareReset_cfg_pol (s : State) : (s.hardwareReset).cfg_pol = State.reset.cfg_pol := rfl
@[simp] theorem hardwareReset_ctl (s : State) : (s.hardwareReset).ctl = State.reset.ctl := rfl
@[simp] theorem hardwareReset_err (s : State) : (s.hardwareReset).err = State.reset.err := rfl
@[simp] theorem hardwareReset_p_start (s : State) : (s.hardwareReset).p_start = State.reset.p_start := rfl
@[simp] theorem hardwareReset_p_mid (s : State) : (s.hardwareReset).p_mid = State.reset.p_mid := rfl
@[simp] theorem hardwareReset_phase (s : State) : (s.hardwareReset).phase = State.reset.phase := rfl
@[simp] theorem hardwareReset_bits_consumed (s : State) : (s.hardwareReset).bits_consumed = State.reset.bits_consumed := rfl
@[simp] theorem hardwareReset_bytes_consumed (s : State) : (s.hardwareReset).bytes_consumed = State.reset.bytes_consumed := rfl
@[simp] theorem hardwareReset_byte_acc (s : State) : (s.hardwareReset).byte_acc = State.reset.byte_acc := rfl
@[simp] theorem hardwareReset_enc_word (s : State) : (s.hardwareReset).enc_word = State.reset.enc_word := rfl
@[simp] theorem hardwareReset_serial_acc (s : State) : (s.hardwareReset).serial_acc = State.reset.serial_acc := rfl
@[simp] theorem hardwareReset_button_acc (s : State) : (s.hardwareReset).button_acc = State.reset.button_acc := rfl
@[simp] theorem hardwareReset_bit_position (s : State) : (s.hardwareReset).bit_position = State.reset.bit_position := rfl
@[simp] theorem hardwareReset_byte_position (s : State) : (s.hardwareReset).byte_position = State.reset.byte_position := rfl
@[simp] theorem hardwareReset_portion_position (s : State) : (s.hardwareReset).portion_position = State.reset.portion_position := rfl
@[simp] theorem hardwareReset_last_period_length (s : State) : (s.hardwareReset).last_period_length = State.reset.last_period_length := rfl
@[simp] theorem hardwareReset_tokens (s : State) : (s.hardwareReset).tokens = s.tokens := rfl
@[simp] theorem hardwareReset_trace (s : State) : (s.hardwareReset).trace = State.reset.trace := rfl
@[simp] theorem hardwareReset_untaken (s : State) : (s.hardwareReset).untaken = State.reset.untaken := rfl
@[simp] theorem hardwareReset_sinkReady (s : State) : (s.hardwareReset).sinkReady = s.sinkReady := rfl

/-! ## Counting a bit -/

@[simp] theorem countBit_cfg_rate (s : State) : (countBit s).cfg_rate = s.cfg_rate := rfl
@[simp] theorem countBit_cfg_pol (s : State) : (countBit s).cfg_pol = s.cfg_pol := rfl
@[simp] theorem countBit_ctl (s : State) : (countBit s).ctl = s.ctl := rfl
@[simp] theorem countBit_err (s : State) : (countBit s).err = s.err := rfl
@[simp] theorem countBit_p_start (s : State) : (countBit s).p_start = s.p_start := rfl
@[simp] theorem countBit_p_mid (s : State) : (countBit s).p_mid = s.p_mid := rfl
@[simp] theorem countBit_phase (s : State) : (countBit s).phase = s.phase := rfl
@[simp] theorem countBit_bits_consumed (s : State) : (countBit s).bits_consumed = s.bits_consumed + 1 := rfl
@[simp] theorem countBit_bytes_consumed (s : State) : (countBit s).bytes_consumed = s.bytes_consumed := rfl
@[simp] theorem countBit_byte_acc (s : State) : (countBit s).byte_acc = s.byte_acc := rfl
@[simp] theorem countBit_enc_word (s : State) : (countBit s).enc_word = s.enc_word := rfl
@[simp] theorem countBit_serial_acc (s : State) : (countBit s).serial_acc = s.serial_acc := rfl
@[simp] theorem countBit_button_acc (s : State) : (countBit s).button_acc = s.button_acc := rfl
@[simp] theorem countBit_bit_position (s : State) : (countBit s).bit_position = s.bit_position := rfl
@[simp] theorem countBit_byte_position (s : State) : (countBit s).byte_position = s.byte_position := rfl
@[simp] theorem countBit_portion_position (s : State) : (countBit s).portion_position = s.portion_position := rfl
@[simp] theorem countBit_last_period_length (s : State) : (countBit s).last_period_length = s.last_period_length := rfl
@[simp] theorem countBit_tokens (s : State) : (countBit s).tokens = s.tokens := rfl
@[simp] theorem countBit_trace (s : State) : (countBit s).trace = s.trace := rfl
@[simp] theorem countBit_untaken (s : State) : (countBit s).untaken = s.untaken := rfl
@[simp] theorem countBit_sinkReady (s : State) : (countBit s).sinkReady = s.sinkReady := rfl

/-! ## The bit of a HEADER -/

@[simp] theorem headerBit_cfg_rate (b : BitVec 1) (pe : Sample) (s : State) : (headerBit b pe s).cfg_rate = s.cfg_rate := rfl
@[simp] theorem headerBit_cfg_pol (b : BitVec 1) (pe : Sample) (s : State) : (headerBit b pe s).cfg_pol = s.cfg_pol := rfl
@[simp] theorem headerBit_ctl (b : BitVec 1) (pe : Sample) (s : State) : (headerBit b pe s).ctl = s.ctl := rfl
@[simp] theorem headerBit_err (b : BitVec 1) (pe : Sample) (s : State) : (headerBit b pe s).err = s.err := rfl
@[simp] theorem headerBit_p_start (b : BitVec 1) (pe : Sample) (s : State) : (headerBit b pe s).p_start = s.p_start := rfl
@[simp] theorem headerBit_p_mid (b : BitVec 1) (pe : Sample) (s : State) : (headerBit b pe s).p_mid = s.p_mid := rfl
@[simp] theorem headerBit_phase (b : BitVec 1) (pe : Sample) (s : State) : (headerBit b pe s).phase = .reading := rfl
@[simp] theorem headerBit_bits_consumed (b : BitVec 1) (pe : Sample) (s : State) : (headerBit b pe s).bits_consumed = s.bits_consumed := rfl
@[simp] theorem headerBit_bytes_consumed (b : BitVec 1) (pe : Sample) (s : State) : (headerBit b pe s).bytes_consumed = s.bytes_consumed := rfl
@[simp] theorem headerBit_byte_acc (b : BitVec 1) (pe : Sample) (s : State) : (headerBit b pe s).byte_acc = s.byte_acc := rfl
@[simp] theorem headerBit_enc_word (b : BitVec 1) (pe : Sample) (s : State) : (headerBit b pe s).enc_word = s.enc_word := rfl
@[simp] theorem headerBit_serial_acc (b : BitVec 1) (pe : Sample) (s : State) : (headerBit b pe s).serial_acc = s.serial_acc := rfl
@[simp] theorem headerBit_button_acc (b : BitVec 1) (pe : Sample) (s : State) : (headerBit b pe s).button_acc = s.button_acc := rfl
@[simp] theorem headerBit_bit_position (b : BitVec 1) (pe : Sample) (s : State) : (headerBit b pe s).bit_position = pe := rfl
@[simp] theorem headerBit_byte_position (b : BitVec 1) (pe : Sample) (s : State) : (headerBit b pe s).byte_position = s.byte_position := rfl
@[simp] theorem headerBit_portion_position (b : BitVec 1) (pe : Sample) (s : State) : (headerBit b pe s).portion_position = s.portion_position := rfl
@[simp] theorem headerBit_last_period_length (b : BitVec 1) (pe : Sample) (s : State) : (headerBit b pe s).last_period_length = pe - s.p_start := rfl
@[simp] theorem headerBit_tokens (b : BitVec 1) (pe : Sample) (s : State) : (headerBit b pe s).tokens = s.tokens := rfl
@[simp] theorem headerBit_trace (b : BitVec 1) (pe : Sample) (s : State) : (headerBit b pe s).trace = s.trace ++ [.bit s.bit_position pe b] := rfl
@[simp] theorem headerBit_untaken (b : BitVec 1) (pe : Sample) (s : State) : (headerBit b pe s).untaken = if s.sinkReady then s.untaken else s.untaken + 1 := rfl
@[simp] theorem headerBit_sinkReady (b : BitVec 1) (pe : Sample) (s : State) : (headerBit b pe s).sinkReady = s.sinkReady := rfl

/-! ## The bit of a FRAME_END -/

@[simp] theorem frameEndBit_cfg_rate (b : BitVec 1) (s : State) : (frameEndBit b s).cfg_rate = s.cfg_rate := rfl
@[simp] theorem frameEndBit_cfg_pol (b : BitVec 1) (s : State) : (frameEndBit b s).cfg_pol = s.cfg_pol := rfl
@[simp] theorem frameEndBit_ctl (b : BitVec 1) (s : State) : (frameEndBit b s).ctl = s.ctl := rfl
@[simp] theorem frameEndBit_err (b : BitVec 1) (s : State) : (frameEndBit b s).err = s.err := rfl
@[simp] theorem frameEndBit_p_start (b : BitVec 1) (s : State) : (frameEndBit b s).p_start = s.p_start := rfl
@[simp] theorem frameEndBit_p_mid (b : BitVec 1) (s : State) : (frameEndBit b s).p_mid = s.p_mid := rfl
@[simp] theorem frameEndBit_phase (b : BitVec 1) (s : State) : (frameEndBit b s).phase = .finishing := rfl
@[simp] theorem frameEndBit_bits_consumed (b : BitVec 1) (s : State) : (frameEndBit b s).bits_consumed = s.bits_consumed := rfl
@[simp] theorem frameEndBit_bytes_consumed (b : BitVec 1) (s : State) : (frameEndBit b s).bytes_consumed = s.bytes_consumed := rfl
@[simp] theorem frameEndBit_byte_acc (b : BitVec 1) (s : State) : (frameEndBit b s).byte_acc = s.byte_acc := rfl
@[simp] theorem frameEndBit_enc_word (b : BitVec 1) (s : State) : (frameEndBit b s).enc_word = s.enc_word := rfl
@[simp] theorem frameEndBit_serial_acc (b : BitVec 1) (s : State) : (frameEndBit b s).serial_acc = s.serial_acc := rfl
@[simp] theorem frameEndBit_button_acc (b : BitVec 1) (s : State) : (frameEndBit b s).button_acc = s.button_acc := rfl
@[simp] theorem frameEndBit_bit_position (b : BitVec 1) (s : State) : (frameEndBit b s).bit_position = s.bit_position := rfl
@[simp] theorem frameEndBit_byte_position (b : BitVec 1) (s : State) : (frameEndBit b s).byte_position = s.byte_position := rfl
@[simp] theorem frameEndBit_portion_position (b : BitVec 1) (s : State) : (frameEndBit b s).portion_position = s.portion_position := rfl
@[simp] theorem frameEndBit_last_period_length (b : BitVec 1) (s : State) : (frameEndBit b s).last_period_length = s.last_period_length := rfl
@[simp] theorem frameEndBit_tokens (b : BitVec 1) (s : State) : (frameEndBit b s).tokens = s.tokens := rfl
@[simp] theorem frameEndBit_trace (b : BitVec 1) (s : State) : (frameEndBit b s).trace = s.trace ++ [.bit s.bit_position (s.bit_position + s.last_period_length) b] := rfl
@[simp] theorem frameEndBit_untaken (b : BitVec 1) (s : State) : (frameEndBit b s).untaken = if s.sinkReady then s.untaken else s.untaken + 1 := rfl
@[simp] theorem frameEndBit_sinkReady (b : BitVec 1) (s : State) : (frameEndBit b s).sinkReady = s.sinkReady := rfl

/-! ## Shifting a bit into the byte register -/

@[simp] theorem shiftByte_cfg_rate (b : BitVec 1) (s : State) : (shiftByte b s).cfg_rate = s.cfg_rate := rfl
@[simp] theorem shiftByte_cfg_pol (b : BitVec 1) (s : State) : (shiftByte b s).cfg_pol = s.cfg_pol := rfl
@[simp] theorem shiftByte_ctl (b : BitVec 1) (s : State) : (shiftByte b s).ctl = s.ctl := rfl
@[simp] theorem shiftByte_err (b : BitVec 1) (s : State) : (shiftByte b s).err = s.err := rfl
@[simp] theorem shiftByte_p_start (b : BitVec 1) (s : State) : (shiftByte b s).p_start = s.p_start := rfl
@[simp] theorem shiftByte_p_mid (b : BitVec 1) (s : State) : (shiftByte b s).p_mid = s.p_mid := rfl
@[simp] theorem shiftByte_phase (b : BitVec 1) (s : State) : (shiftByte b s).phase = s.phase := rfl
@[simp] theorem shiftByte_bits_consumed (b : BitVec 1) (s : State) : (shiftByte b s).bits_consumed = s.bits_consumed := rfl
@[simp] theorem shiftByte_bytes_consumed (b : BitVec 1) (s : State) : (shiftByte b s).bytes_consumed = s.bytes_consumed := rfl
@[simp] theorem shiftByte_byte_acc (b : BitVec 1) (s : State) : (shiftByte b s).byte_acc = shiftInBit s.byte_acc b := rfl
@[simp] theorem shiftByte_enc_word (b : BitVec 1) (s : State) : (shiftByte b s).enc_word = s.enc_word := rfl
@[simp] theorem shiftByte_serial_acc (b : BitVec 1) (s : State) : (shiftByte b s).serial_acc = s.serial_acc := rfl
@[simp] theorem shiftByte_button_acc (b : BitVec 1) (s : State) : (shiftByte b s).button_acc = s.button_acc := rfl
@[simp] theorem shiftByte_bit_position (b : BitVec 1) (s : State) : (shiftByte b s).bit_position = s.bit_position := rfl
@[simp] theorem shiftByte_byte_position (b : BitVec 1) (s : State) : (shiftByte b s).byte_position = s.byte_position := rfl
@[simp] theorem shiftByte_portion_position (b : BitVec 1) (s : State) : (shiftByte b s).portion_position = s.portion_position := rfl
@[simp] theorem shiftByte_last_period_length (b : BitVec 1) (s : State) : (shiftByte b s).last_period_length = s.last_period_length := rfl
@[simp] theorem shiftByte_tokens (b : BitVec 1) (s : State) : (shiftByte b s).tokens = s.tokens := rfl
@[simp] theorem shiftByte_trace (b : BitVec 1) (s : State) : (shiftByte b s).trace = s.trace := rfl
@[simp] theorem shiftByte_untaken (b : BitVec 1) (s : State) : (shiftByte b s).untaken = s.untaken := rfl
@[simp] theorem shiftByte_sinkReady (b : BitVec 1) (s : State) : (shiftByte b s).sinkReady = s.sinkReady := rfl

/-! ## The byte events -/

@[simp] theorem emitByte_cfg_rate (pe : Sample) (s : State) : (emitByte pe s).cfg_rate = s.cfg_rate := rfl
@[simp] theorem emitByte_cfg_pol (pe : Sample) (s : State) : (emitByte pe s).cfg_pol = s.cfg_pol := rfl
@[simp] theorem emitByte_ctl (pe : Sample) (s : State) : (emitByte pe s).ctl = s.ctl := rfl
@[simp] theorem emitByte_err (pe : Sample) (s : State) : (emitByte pe s).err = s.err := rfl
@[simp] theorem emitByte_p_start (pe : Sample) (s : State) : (emitByte pe s).p_start = s.p_start := rfl
@[simp] theorem emitByte_p_mid (pe : Sample) (s : State) : (emitByte pe s).p_mid = s.p_mid := rfl
@[simp] theorem emitByte_phase (pe : Sample) (s : State) : (emitByte pe s).phase = s.phase := rfl
@[simp] theorem emitByte_bits_consumed (pe : Sample) (s : State) : (emitByte pe s).bits_consumed = s.bits_consumed := rfl
@[simp] theorem emitByte_bytes_consumed (pe : Sample) (s : State) : (emitByte pe s).bytes_consumed = s.bytes_consumed + 1 := rfl
@[simp] theorem emitByte_byte_acc (pe : Sample) (s : State) : (emitByte pe s).byte_acc = 0 := rfl
@[simp] theorem emitByte_enc_word (pe : Sample) (s : State) : (emitByte pe s).enc_word = s.enc_word := rfl
@[simp] theorem emitByte_serial_acc (pe : Sample) (s : State) : (emitByte pe s).serial_acc = s.serial_acc := rfl
@[simp] theorem emitByte_button_acc (pe : Sample) (s : State) : (emitByte pe s).button_acc = s.button_acc := rfl
@[simp] theorem emitByte_bit_position (pe : Sample) (s : State) : (emitByte pe s).bit_position = s.bit_position := rfl
@[simp] theorem emitByte_byte_position (pe : Sample) (s : State) : (emitByte pe s).byte_position = pe := rfl
@[simp] theorem emitByte_portion_position (pe : Sample) (s : State) : (emitByte pe s).portion_position = s.portion_position := rfl
@[simp] theorem emitByte_last_period_length (pe : Sample) (s : State) : (emitByte pe s).last_period_length = s.last_period_length := rfl
@[simp] theorem emitByte_tokens (pe : Sample) (s : State) : (emitByte pe s).tokens = s.tokens := rfl
@[simp] theorem emitByte_trace (pe : Sample) (s : State) : (emitByte pe s).trace =
    s.trace ++ [.byte s.byte_position pe s.byte_acc] ++ [.raw s.byte_position pe s.byte_acc] := rfl
@[simp] theorem emitByte_sinkReady (pe : Sample) (s : State) : (emitByte pe s).sinkReady = s.sinkReady := rfl

/-! ## Fields that inserting a byte leaves alone -/

@[simp] theorem insertEnc_cfg_rate (done : BitVec 8) (s : State) : (insertEnc done s).cfg_rate = s.cfg_rate := by
  unfold insertEnc; split <;> rfl
@[simp] theorem insertEnc_cfg_pol (done : BitVec 8) (s : State) : (insertEnc done s).cfg_pol = s.cfg_pol := by
  unfold insertEnc; split <;> rfl
@[simp] theorem insertEnc_ctl (done : BitVec 8) (s : State) : (insertEnc done s).ctl = s.ctl := by
  unfold insertEnc; split <;> rfl
@[simp] theorem insertEnc_err (done : BitVec 8) (s : State) : (insertEnc done s).err = s.err := by
  unfold insertEnc; split <;> rfl
@[simp] theorem insertEnc_p_start (done : BitVec 8) (s : State) : (insertEnc done s).p_start = s.p_start := by
  unfold insertEnc; split <;> rfl
@[simp] theorem insertEnc_p_mid (done : BitVec 8) (s : State) : (insertEnc done s).p_mid = s.p_mid := by
  unfold insertEnc; split <;> rfl
@[simp] theorem insertEnc_phase (done : BitVec 8) (s : State) : (insertEnc done s).phase = s.phase := by
  unfold insertEnc; split <;> rfl
@[simp] theorem insertEnc_bits_consumed (done : BitVec 8) (s : State) : (insertEnc done s).bits_consumed = s.bits_consumed := by
  unfold insertEnc; split <;> rfl
@[simp] theorem insertEnc_bytes_consumed (done : BitVec 8) (s : State) : (insertEnc done s).bytes_consumed = s.bytes_consumed := by
  unfold insertEnc; split <;> rfl
@[simp] theorem insertEnc_byte_acc (done : BitVec 8) (s : State) : (insertEnc done s).byte_acc = s.byte_acc := by
  unfold insertEnc; split <;> rfl
@[simp] theorem insertEnc_serial_acc (done : BitVec 8) (s : State) : (insertEnc done s).serial_acc = s.serial_acc := by
  unfold insertEnc; split <;> rfl
@[simp] theorem insertEnc_button_acc (done : BitVec 8) (s : State) : (insertEnc done s).button_acc = s.button_acc := by
  unfold insertEnc; split <;> rfl
@[simp] theorem insertEnc_bit_position (done : BitVec 8) (s : State) : (insertEnc done s).bit_position = s.bit_position := by
  unfold insertEnc; split <;> rfl
@[simp] theorem insertEnc_byte_position (done : BitVec 8) (s : State) : (insertEnc done s).byte_position = s.byte_position := by
  unfold insertEnc; split <;> rfl
@[simp] theorem insertEnc_portion_position (done : BitVec 8) (s : State) : (insertEnc done s).portion_position = s.portion_position := by
  unfold insertEnc; split <;> rfl
@[simp] theorem insertEnc_last_period_length (done : BitVec 8) (s : State) : (insertEnc done s).last_period_length = s.last_period_length := by
  unfold insertEnc; split <;> rfl
@[simp] theorem insertEnc_tokens (done : BitVec 8) (s : State) : (insertEnc done s).tokens = s.tokens := by
  unfold insertEnc; split <;> rfl
@[simp] theorem insertEnc_trace (done : BitVec 8) (s : State) : (insertEnc done s).trace = s.trace := by
  unfold insertEnc; split <;> rfl
@[simp] theorem insertEnc_untaken (done : BitVec 8) (s : State) : (insertEnc done s).untaken = s.untaken := by
  unfold insertEnc; split <;> rfl
@[simp] theorem insertEnc_sinkReady (done : BitVec 8) (s : State) : (insertEnc done s).sinkReady = s.sinkReady := by
  unfold insertEnc; split <;> rfl

/-! ## Fields that completing a byte leaves alone -/

@[simp] theorem completeByte_cfg_rate (pe : Sample) (s : State) : (completeByte pe s).cfg_rate = s.cfg_rate := by
  unfold completeByte; split <;> simp
@[simp] theorem completeByte_cfg_pol (pe : Sample) (s : State) : (completeByte pe s).cfg_pol = s.cfg_pol := by
  unfold completeByte; split <;> simp
@[simp] theorem completeByte_ctl (pe : Sample) (s : State) : (completeByte pe s).ctl = s.ctl := by
  unfold completeByte; split <;> simp
@[simp] theorem completeByte_err (pe : Sample) (s : State) : (completeByte pe s).err = s.err := by
  unfold completeByte; split <;> simp
@[simp] theorem completeByte_p_start (pe : Sample) (s : State) : (completeByte pe s).p_start = s.p_start := by
  unfold completeByte; split <;> simp
@[simp] theorem completeByte_p_mid (pe : Sample) (s : State) : (completeByte pe s).p_mid = s.p_mid := by
  unfold completeByte; split <;> simp
@[simp] theorem completeByte_phase (pe : Sample) (s : State) : (completeByte pe s).phase = s.phase := by
  unfold completeByte; split <;> simp
@[simp] theorem completeByte_bits_consumed (pe : Sample) (s : State) : (completeByte pe s).bits_consumed = s.bits_consumed := by
  unfold completeByte; split <;> simp
@[simp] theorem completeByte_serial_acc (pe : Sample) (s : State) : (completeByte pe s).serial_acc = s.serial_acc := by
  unfold completeByte; split <;> simp
@[simp] theorem completeByte_button_acc (pe : Sample) (s : State) : (completeByte pe s).button_acc = s.button_acc := by
  unfold completeByte; split <;> simp
@[simp] theorem completeByte_bit_position (pe : Sample) (s : State) : (completeByte pe s).bit_position = s.bit_position := by
  unfold completeByte; split <;> simp
@[simp] theorem completeByte_portion_position (pe : Sample) (s : State) : (completeByte pe s).portion_position = s.portion_position := by
  unfold completeByte; split <;> simp
@[simp] theorem completeByte_last_period_length (pe : Sample) (s : State) : (completeByte pe s).last_period_length = s.last_period_length := by
  unfold completeByte; split <;> simp
@[simp] theorem completeByte_tokens (pe : Sample) (s : State) : (completeByte pe s).tokens = s.tokens := by
  unfold completeByte; split <;> simp
@[simp] theorem completeByte_sinkReady (pe : Sample) (s : State) : (completeByte pe s).sinkReady = s.sinkReady := by
  unfold completeByte; split <;> simp

/-! ## Fields that the encrypted-word portion leaves alone -/

@[simp] theorem encPortion_cfg_rate (pe : Sample) (s : State) : (encPortion pe s).cfg_rate = s.cfg_rate := by
  unfold encPortion; split <;> rfl
@[simp] theorem encPortion_cfg_pol (pe : Sample) (s : State) : (encPortion pe s).cfg_pol = s.cfg_pol := by
  unfold encPortion; split <;> rfl
@[simp] theorem encPortion_ctl (pe : Sample) (s : State) : (encPortion pe s).ctl = s.ctl := by
  unfold encPortion; split <;> rfl
@[simp] theorem encPortion_err (pe : Sample) (s : State) : (encPortion pe s).err = s.err := by
  unfold encPortion; split <;> rfl
@[simp] theorem encPortion_p_start (pe : Sample) (s : State) : (encPortion pe s).p_start = s.p_start := by
  unfold encPortion; split <;> rfl
@[simp] theorem encPortion_p_mid (pe : Sample) (s : State) : (encPortion pe s).p_mid = s.p_mid := by
  unfold encPortion; split <;> rfl
@[simp] theorem encPortion_phase (pe : Sample) (s : State) : (encPortion pe s).phase = s.phase := by
  unfold encPortion; split <;> rfl
@[simp] theorem encPortion_bits_consumed (pe : Sample) (s : State) : (encPortion pe s).bits_consumed = s.bits_consumed := by
  unfold encPortion; split <;> rfl
@[simp] theorem encPortion_bytes_consumed (pe : Sample) (s : State) : (encPortion pe s).bytes_consumed = s.bytes_consumed := by
  unfold encPortion; split <;> rfl
@[simp] theorem encPortion_byte_acc (pe : Sample) (s : State) : (encPortion pe s).byte_acc = s.byte_acc := by
  unfold encPortion; split <;> rfl
@[simp] theorem encPortion_serial_acc (pe : Sample) (s : State) : (encPortion pe s).serial_acc = s.serial_acc := by
  unfold encPortion; split <;> rfl
@[simp] theorem encPortion_button_acc (pe : Sample) (s : State) : (encPortion pe s).button_acc = s.button_acc := by
  unfold encPortion; split <;> rfl
@[simp] theorem encPortion_bit_position (pe : Sample) (s : State) : (encPortion pe s).bit_position = s.bit_position := by
  unfold encPortion; split <;> rfl
@[simp] theorem encPortion_byte_position (pe : Sample) (s : State) : (encPortion pe s).byte_position = s.byte_position := by
  unfold encPortion; split <;> rfl
@[simp] theorem encPortion_last_period_length (pe : Sample) (s : State) : (encPortion pe s).last_period_length = s.last_period_length := by
  unfold encPortion; split <;> rfl
@[simp] theorem encPortion_tokens (pe : Sample) (s : State) : (encPortion pe s).tokens = s.tokens := by
  unfold encPortion; split <;> rfl
@[simp] theorem encPortion_sinkReady (pe : Sample) (s : State) : (encPortion pe s).sinkReady = s.sinkReady := by
  unfold encPortion; split <;> rfl

/-! ## Fields that serial accumulation leaves alone -/

@[simp] theorem serialBit_cfg_rate (b : BitVec 1) (s : State) : (serialBit b s).cfg_rate = s.cfg_rate := by
  unfold serialBit; split <;> rfl
@[simp] theorem serialBit_cfg_pol (b : BitVec 1) (s : State) : (serialBit b s).cfg_pol = s.cfg_pol := by
  unfold serialBit; split <;> rfl
@[simp] theorem serialBit_ctl (b : BitVec 1) (s : State) : (serialBit b s).ctl = s.ctl := by
  unfold serialBit; split <;> rfl
@[simp] theorem serialBit_err (b : BitVec 1) (s : State) : (serialBit b s).err = s.err := by
  unfold serialBit; split <;> rfl
@[simp] theorem serialBit_p_start (b : BitVec 1) (s : State) : (serialBit b s).p_start = s.p_start := by
  unfold serialBit; split <;> rfl
@[simp] theorem serialBit_p_mid (b : BitVec 1) (s : State) : (serialBit b s).p_mid = s.p_mid := by
  unfold serialBit; split <;> rfl
@[simp] theorem serialBit_phase (b : BitVec 1) (s : State) : (serialBit b s).phase = s.phase := by
  unfold serialBit; split <;> rfl
@[simp] theorem serialBit_bits_consumed (b : BitVec 1) (s : State) : (serialBit b s).bits_consumed = s.bits_consumed := by
  unfold serialBit; split <;> rfl
@[simp] theorem serialBit_bytes_consumed (b : BitVec 1) (s : State) : (serialBit b s).bytes_consumed = s.bytes_consumed := by
  unfold serialBit; split <;> rfl
@[simp] theorem serialBit_byte_acc (b : BitVec 1) (s : State) : (serialBit b s).byte_acc = s.byte_acc := by
  unfold serialBit; split <;> rfl
@[simp] theorem serialBit_enc_word (b : BitVec 1) (s : State) : (serialBit b s).enc_word = s.enc_word := by
  unfold serialBit; split <;> rfl
@[simp] theorem serialBit_button_acc (b : BitVec 1) (s : State) : (serialBit b s).button_acc = s.button_acc := by
  unfold serialBit; split <;> rfl
@[simp] theorem serialBit_bit_position (b : BitVec 1) (s : State) : (serialBit b s).bit_position = s.bit_position := by
  unfold serialBit; split <;> rfl
@[simp] theorem serialBit_byte_position (b : BitVec 1) (s : State) : (serialBit b s).byte_position = s.byte_position := by
  unfold serialBit; split <;> rfl
@[simp] theorem serialBit_portion_position (b : BitVec 1) (s : State) : (serialBit b s).portion_position = s.portion_position := by
  unfold serialBit; split <;> rfl
@[simp] theorem serialBit_last_period_length (b : BitVec 1) (s : State) : (serialBit b s).last_period_length = s.last_period_length := by
  unfold serialBit; split <;> rfl
@[simp] theorem serialBit_tokens (b : BitVec 1) (s : State) : (serialBit b s).tokens = s.tokens := by
  unfold serialBit; split <;> rfl
@[simp] theorem serialBit_trace (b : BitVec 1) (s : State) : (serialBit b s).trace = s.trace := by
  unfold serialBit; split <;> rfl
@[simp] theorem serialBit_untaken (b : BitVec 1) (s : State) : (serialBit b s).untaken = s.untaken := by
  unfold serialBit; split <;> rfl
@[simp] theorem serialBit_sinkReady (b : BitVec 1) (s : State) : (serialBit b s).sinkReady = s.sinkReady := by
  unfold serialBit; split <;> rfl

/-! ## Fields that the serial portion leaves alone -/

@[simp] theorem serialPortion_cfg_rate (pe : Sample) (s : State) : (serialPortion pe s).cfg_rate = s.cfg_rate := by
  unfold serialPortion; split <;> rfl
@[simp] theorem serialPortion_cfg_pol (pe : Sample) (s : State) : (serialPortion pe s).cfg_pol = s.cfg_pol := by
  unfold serialPortion; split <;> rfl
@[simp] theorem serialPortion_ctl (pe : Sample) (s : State) : (serialPortion pe s).ctl = s.ctl := by
  unfold serialPortion; split <;> rfl
@[simp] theorem serialPortion_err (pe : Sample) (s : State) : (serialPortion pe s).err = s.err := by
  unfold serialPortion; split <;> rfl
@[simp] theorem serialPortion_p_start (pe : Sample) (s : State) : (serialPortion pe s).p_start = s.p_start := by
  unfold serialPortion; split <;> rfl
@[simp] theorem serialPortion_p_mid (pe : Sample) (s : State) : (serialPortion pe s).p_mid = s.p_mid := by
  unfold serialPortion; split <;> rfl
@[simp] theorem serialPortion_phase (pe : Sample) (s : State) : (serialPortion pe s).phase = s.phase := by
  unfold serialPortion; split <;> rfl
@[simp] theorem serialPortion_bits_consumed (pe : Sample) (s : State) : (serialPortion pe s).bits_consumed = s.bits_consumed := by
  unfold serialPortion; split <;> rfl
@[simp] theorem serialPortion_bytes_consumed (pe : Sample) (s : State) : (serialPortion pe s).bytes_consumed = s.bytes_consumed := by
  unfold serialPortion; split <;> rfl
@[simp] theorem serialPortion_byte_acc (pe : Sample) (s : State) : (serialPortion pe s).byte_acc = s.byte_acc := by
  unfold serialPortion; split <;> rfl
@[simp] theorem serialPortion_enc_word (pe : Sample) (s : State) : (serialPortion pe s).enc_word = s.enc_word := by
  unfold serialPortion; split <;> rfl
@[simp] theorem serialPortion_serial_acc (pe : Sample) (s : State) : (serialPortion pe s).serial_acc = s.serial_acc := by
  unfold serialPortion; split <;> rfl
@[simp] theorem serialPortion_button_acc (pe : Sample) (s : State) : (serialPortion pe s).button_acc = s.button_acc := by
  unfold serialPortion; split <;> rfl
@[simp] theorem serialPortion_bit_position (pe : Sample) (s : State) : (serialPortion pe s).bit_position = s.bit_position := by
  unfold serialPortion; split <;> rfl
@[simp] theorem serialPortion_byte_position (pe : Sample) (s : State) : (serialPortion pe s).byte_position = s.byte_position := by
  unfold serialPortion; split <;> rfl
@[simp] theorem serialPortion_last_period_length (pe : Sample) (s : State) : (serialPortion pe s).last_period_length = s.last_period_length := by
  unfold serialPortion; split <;> rfl
@[simp] theorem serialPortion_tokens (pe : Sample) (s : State) : (serialPortion pe s).tokens = s.tokens := by
  unfold serialPortion; split <;> rfl
@[simp] theorem serialPortion_sinkReady (pe : Sample) (s : State) : (serialPortion pe s).sinkReady = s.sinkReady := by
  unfold serialPortion; split <;> rfl

/-! ## Fields that button accumulation leaves alone -/

@[simp] theorem buttonBit_cfg_rate (b : BitVec 1) (s : State) : (buttonBit b s).cfg_rate = s.cfg_rate := by
  unfold buttonBit; split <;> rfl
@[simp] theorem buttonBit_cfg_pol (b : BitVec 1) (s : State) : (buttonBit b s).cfg_pol = s.cfg_pol := by
  unfold buttonBit; split <;> rfl
@[simp] theorem buttonBit_ctl (b : BitVec 1) (s : State) : (buttonBit b s).ctl = s.ctl := by
  unfold buttonBit; split <;> rfl
@[simp] theorem buttonBit_err (b : BitVec 1) (s : State) : (buttonBit b s).err = s.err := by
  unfold buttonBit; split <;> rfl
@[simp] theorem buttonBit_p_start (b : BitVec 1) (s : State) : (buttonBit b s).p_start = s.p_start := by
  unfold buttonBit; split <;> rfl
@[simp] theorem buttonBit_p_mid (b : BitVec 1) (s : State) : (buttonBit b s).p_mid = s.p_mid := by
  unfold buttonBit; split <;> rfl
@[simp] theorem buttonBit_phase (b : BitVec 1) (s : State) : (buttonBit b s).phase = s.phase := by
  unfold buttonBit; split <;> rfl
@[simp] theorem buttonBit_bits_consumed (b : BitVec 1) (s : State) : (buttonBit b s).bits_consumed = s.bits_consumed := by
  unfold buttonBit; split <;> rfl
@[simp] theorem buttonBit_bytes_consumed (b : BitVec 1) (s : State) : (buttonBit b s).bytes_consumed = s.bytes_consumed := by
  unfold buttonBit; split <;> rfl
@[simp] theorem buttonBit_byte_acc (b : BitVec 1) (s : State) : (buttonBit b s).byte_acc = s.byte_acc := by
  unfold buttonBit; split <;> rfl
@[simp] theorem buttonBit_enc_word (b : BitVec 1) (s : State) : (buttonBit b s).enc_word = s.enc_word := by
  unfold buttonBit; split <;> rfl
@[simp] theorem buttonBit_serial_acc (b : BitVec 1) (s : State) : (buttonBit b s).serial_acc = s.serial_acc := by
  unfold buttonBit; split <;> rfl
@[simp] theorem buttonBit_bit_position (b : BitVec 1) (s : State) : (buttonBit b s).bit_position = s.bit_position := by
  unfold buttonBit; split <;> rfl
@[simp] theorem buttonBit_byte_position (b : BitVec 1) (s : State) : (buttonBit b s).byte_position = s.byte_position := by
  unfold buttonBit; split <;> rfl
@[simp] theorem buttonBit_portion_position (b : BitVec 1) (s : State) : (buttonBit b s).portion_position = s.portion_position := by
  unfold buttonBit; split <;> rfl
@[simp] theorem buttonBit_last_period_length (b : BitVec 1) (s : State) : (buttonBit b s).last_period_length = s.last_period_length := by
  unfold buttonBit; split <;> rfl
@[simp] theorem buttonBit_tokens (b : BitVec 1) (s : State) : (buttonBit b s).tokens = s.tokens := by
  unfold buttonBit; split <;> rfl
@[simp] theorem buttonBit_trace (b : BitVec 1) (s : State) : (buttonBit b s).trace = s.trace := by
  unfold buttonBit; split <;> rfl
@[simp] theorem buttonBit_untaken (b : BitVec 1) (s : State) : (buttonBit b s).untaken = s.untaken := by
  unfold buttonBit; split <;> rfl
@[simp] theorem buttonBit_sinkReady (b : BitVec 1) (s : State) : (buttonBit b s).sinkReady = s.sinkReady := by
  unfold buttonBit; split <;> rfl

/-! ## Fields that the button portion leaves alone -/

@[simp] theorem buttonPortion_cfg_rate (pe : Sample) (s : State) : (buttonPortion pe s).cfg_rate = s.cfg_rate := by
  unfold buttonPortion; split <;> rfl
@[simp] theorem buttonPortion_cfg_pol (pe : Sample) (s : State) : (buttonPortion pe s).cfg_pol = s.cfg_pol := by
  unfold buttonPortion; split <;> rfl
@[simp] theorem buttonPortion_ctl (pe : Sample) (s : State) : (buttonPortion pe s).ctl = s.ctl := by
  unfold buttonPortion; split <;> rfl
@[simp] theorem buttonPortion_err (pe : Sample) (s : State) : (buttonPortion pe s).err = s.err := by
  unfold buttonPortion; split <;> rfl
@[simp] theorem buttonPortion_p_start (pe : Sample) (s : State) : (buttonPortion pe s).p_start = s.p_start := by
  unfold buttonPortion; split <;> rfl
@[simp] theorem buttonPortion_p_mid (pe : Sample) (s : State) : (buttonPortion pe s).p_mid = s.p_mid := by
  unfold buttonPortion; split <;> rfl
@[simp] theorem buttonPortion_phase (pe : Sample) (s : State) : (buttonPortion pe s).phase = s.phase := by
  unfold buttonPortion; split <;> rfl
@[simp] theorem buttonPortion_bits_consumed (pe : Sample) (s : State) : (buttonPortion pe s).bits_consumed = s.bits_consumed := by
  unfold buttonPortion; split <;> rfl
@[simp] theorem buttonPortion_bytes_consumed (pe : Sample) (s : State) : (buttonPortion pe s).bytes_consumed = s.bytes_consumed := by
  unfold buttonPortion; split <;> rfl
@[simp] theorem buttonPortion_byte_acc (pe : Sample) (s : State) : (buttonPortion pe s).byte_acc = s.byte_acc := by
  unfold buttonPortion; split <;> rfl
@[simp] theorem buttonPortion_enc_word (pe : Sample) (s : State) : (buttonPortion pe s).enc_word = s.enc_word := by
  unfold buttonPortion; split <;> rfl
@[simp] theorem buttonPortion_serial_acc (pe : Sample) (s : State) : (buttonPortion pe s).serial_acc = s.serial_acc := by
  unfold buttonPortion; split <;> rfl
@[simp] theorem buttonPortion_button_acc (pe : Sample) (s : State) : (buttonPortion pe s).button_acc = s.button_acc := by
  unfold buttonPortion; split <;> rfl
@[simp] theorem buttonPortion_bit_position (pe : Sample) (s : State) : (buttonPortion pe s).bit_position = s.bit_position := by
  unfold buttonPortion; split <;> rfl
@[simp] theorem buttonPortion_byte_position (pe : Sample) (s : State) : (buttonPortion pe s).byte_position = s.byte_position := by
  unfold buttonPortion; split <;> rfl
@[simp] theorem buttonPortion_last_period_length (pe : Sample) (s : State) : (buttonPortion pe s).last_period_length = s.last_period_length := by
  unfold buttonPortion; split <;> rfl
@[simp] theorem buttonPortion_tokens (pe : Sample) (s : State) : (buttonPortion pe s).tokens = s.tokens := by
  unfold buttonPortion; split <;> rfl
@[simp] theorem buttonPortion_sinkReady (pe : Sample) (s : State) : (buttonPortion pe s).sinkReady = s.sinkReady := by
  unfold buttonPortion; split <;> rfl

end Sys2Proof.Machine
end

