-- ==== Sys2Proof/Laws/Commit.lean ====
section
/-! SUPPORT. Commit: for the classifier, each part of a commit and the commit itself, one lemma that says once what it can do. -/

namespace Sys2Proof.Machine

/-! ## The classifier -/

theorem timeGe_exact_iff (len : Int) (rate : Nat) (t : Threshold) :
    timeGe .exact len rate t = true ↔ (t.num : Int) * rate ≤ len * t.den := by
  simp [timeGe]

theorem timeLe_exact_iff (len : Int) (rate : Nat) (t : Threshold) :
    timeLe .exact len rate t = true ↔ len * t.den ≤ (t.num : Int) * rate := by
  simp [timeLe]

theorem timeLt_exact_iff (len : Int) (rate : Nat) (t : Threshold) :
    timeLt .exact len rate t = true ↔ len * t.den < (t.num : Int) * rate := by
  simp [timeLt]

@[simp] theorem Binary64.le_nan (a : Binary64) : a.le .nan = false := by cases a <;> rfl

@[simp] theorem Binary64.nan_le (a : Binary64) : Binary64.nan.le a = false := by cases a <;> rfl

@[simp] theorem Binary64.lt_nan (a : Binary64) : a.lt .nan = false := by cases a <;> rfl

@[simp] theorem Binary64.nan_lt (a : Binary64) : Binary64.nan.lt a = false := by cases a <;> rfl

/-- Rounding gives a finite value below 2^1024, or infinity, and never a NaN. -/
theorem Binary64.nearest_cases (num den : Nat) :
    (∃ v, v < 2 ^ (1024 + 1074) ∧ Binary64.nearest num den = .finite v) ∨ Binary64.nearest num den = .inf := by
  unfold Binary64.nearest
  extract_lets scaled unit mant rest rounded
  by_cases h : rounded < 2 ^ (1024 + 1074)
  · exact .inl ⟨rounded, h, if_pos h⟩
  · exact .inr (if_neg h)

theorem malformed_eq_false_iff (ps pm pe : Nat) : malformed ps pm pe = false ↔ ps < pm ∧ pm < pe := by
  simp [malformed]

/-- The window of R144 in the exact form of R142. -/
theorem inHeaderRange_exact_iff (ps pe rate : Nat) :
    inHeaderRange .exact ps pe rate = true ↔
      (rate : Int) ≤ 1000 * ((pe : Int) - ps) ∧ 2500 * ((pe : Int) - ps) ≤ 3 * (rate : Int) := by
  simp only [inHeaderRange, Bool.and_eq_true, timeGe_exact_iff, timeLe_exact_iff, periodLength, sampleDiff,
    Config.T_PERIOD_MIN, Config.T_PERIOD_MAX]
  push_cast
  constructor <;> rintro ⟨h1, h2⟩ <;> constructor <;> linarith

/-- The condition of R145 in the exact form of R142. -/
theorem isFrameEnd_exact_iff (ps pm rate n : Nat) (ph : Phase) :
    isFrameEnd .exact ps pm rate n ph = true ↔
      64 < n ∧ 10000 * ((pm : Int) - ps) < 9 * (rate : Int) ∧ ph = .reading := by
  have h := timeLt_exact_iff (dutyLength ps pm) rate Config.T_FRAME_END_DUTY
  simp [dutyLength, sampleDiff] at h
  simp [isFrameEnd, dutyLength, sampleDiff, h]
  constructor
  · rintro ⟨⟨h1, h2⟩, h3⟩; exact ⟨h1, by linarith, h3⟩
  · rintro ⟨h1, h2, h3⟩; exact ⟨⟨h1, by linarith⟩, h3⟩

/-- What a verdict other than REJECT says of the period, under either arithmetic (R147). -/
theorem classifyWith_cases (ar : ThresholdArith) (ps pm pe r n : Nat) (ph : Phase) :
    classifyWith ar ps pm pe r n ph = .reject ∨
    (classifyWith ar ps pm pe r n ph = .header ∧ malformed ps pm pe = false ∧ inHeaderRange ar ps pe r = true) ∨
    (classifyWith ar ps pm pe r n ph = .frameEnd ∧ malformed ps pm pe = false ∧ isFrameEnd ar ps pm r n ph = true) := by
  unfold classifyWith
  grind

/-- What a verdict of this hardware other than REJECT says of the period (R147). -/
theorem classify_cases (ps pm pe : Sample) (r : Rate) (n : BitVec 16) (ph : Phase) :
    classify ps pm pe r n ph = .reject ∨
    (classify ps pm pe r n ph = .header ∧ malformed ps.toNat pm.toNat pe.toNat = false ∧
      inHeaderRange .exact ps.toNat pe.toNat r.toNat = true) ∨
    (classify ps pm pe r n ph = .frameEnd ∧ malformed ps.toNat pm.toNat pe.toNat = false ∧
      isFrameEnd .exact ps.toNat pm.toNat r.toNat n.toNat ph = true) :=
  classifyWith_cases .exact ps.toNat pm.toNat pe.toNat r.toNat n.toNat ph

/-! ## The parts of a HEADER commit -/

theorem byteReady_iff (n : Nat) : byteReady n = true ↔ n % 8 = 0 := by simp [byteReady]

theorem portionReady_enc_iff (n : Nat) : portionReady .enc n = true ↔ n = 32 := by simp [portionReady, portionBit]

theorem portionReady_serial_iff (n : Nat) : portionReady .serial n = true ↔ n = 60 := by simp [portionReady, portionBit]

theorem portionReady_button_iff (n : Nat) : portionReady .button n = true ↔ n = 64 := by simp [portionReady, portionBit]

theorem countFull_iff (n : BitVec 16) : countFull n = true ↔ n.toNat = 65535 := by simp [countFull]

theorem completeByte_of_ready {s : State} (pe : Sample) (h : s.bits_consumed.toNat % 8 = 0) :
    completeByte pe s = insertEnc s.byte_acc (emitByte pe s) := by
  simp [completeByte, byteReady, h]

theorem completeByte_of_not_ready {s : State} (pe : Sample) (h : s.bits_consumed.toNat % 8 ≠ 0) :
    completeByte pe s = s := by
  simp [completeByte, byteReady, h]

theorem insertEnc_enc_word (done : BitVec 8) (s : State) :
    (insertEnc done s).enc_word =
      if s.bytes_consumed.toNat ≤ 4 then insertByte s.enc_word s.bytes_consumed.toNat done else s.enc_word := by
  unfold insertEnc; split <;> rfl

theorem encPortion_cases (pe : Sample) (s : State) :
    (s.bits_consumed.toNat = 32 ∧
      encPortion pe s = { s.emit (.enc s.portion_position pe s.enc_word) with portion_position := pe, enc_word := 0 }) ∨
    (s.bits_consumed.toNat ≠ 32 ∧ encPortion pe s = s) := by
  by_cases h : s.bits_consumed.toNat = 32
  · exact .inl ⟨h, by simp [encPortion, portionReady_enc_iff, h]⟩
  · exact .inr ⟨h, by simp [encPortion, portionReady_enc_iff, h]⟩

theorem serialPortion_cases (pe : Sample) (s : State) :
    (s.bits_consumed.toNat = 60 ∧
      serialPortion pe s = { s.emit (.serial s.portion_position pe s.serial_acc) with portion_position := pe }) ∨
    (s.bits_consumed.toNat ≠ 60 ∧ serialPortion pe s = s) := by
  by_cases h : s.bits_consumed.toNat = 60
  · exact .inl ⟨h, by simp [serialPortion, portionReady_serial_iff, h]⟩
  · exact .inr ⟨h, by simp [serialPortion, portionReady_serial_iff, h]⟩

theorem buttonPortion_cases (pe : Sample) (s : State) :
    (s.bits_consumed.toNat = 64 ∧
      buttonPortion pe s = { s.emit (.button s.portion_position pe s.button_acc) with portion_position := pe }) ∨
    (s.bits_consumed.toNat ≠ 64 ∧ buttonPortion pe s = s) := by
  by_cases h : s.bits_consumed.toNat = 64
  · exact .inl ⟨h, by simp [buttonPortion, portionReady_button_iff, h]⟩
  · exact .inr ⟨h, by simp [buttonPortion, portionReady_button_iff, h]⟩

theorem serialBit_serial_acc (b : BitVec 1) (s : State) :
    (serialBit b s).serial_acc =
      if 32 < s.bits_consumed.toNat ∧ s.bits_consumed.toNat ≤ 60 then
        insertSerialBit s.serial_acc s.bits_consumed.toNat b
      else s.serial_acc := by
  by_cases h : 32 < s.bits_consumed.toNat ∧ s.bits_consumed.toNat ≤ 60 <;> simp [serialBit, h]

theorem buttonBit_button_acc (b : BitVec 1) (s : State) :
    (buttonBit b s).button_acc =
      if 60 < s.bits_consumed.toNat ∧ s.bits_consumed.toNat ≤ 64 then
        insertButtonBit s.button_acc s.bits_consumed.toNat b
      else s.button_acc := by
  by_cases h : 60 < s.bits_consumed.toNat ∧ s.bits_consumed.toNat ≤ 64 <;> simp [buttonBit, h]

/-! ## The commit -/

/-- An accepted period either finds the counter full and raises COUNT_OVERFLOW, or is counted and committed (R175). -/
theorem accept_cases (rest : State → State) (s : State) :
    (s.bits_consumed.toNat = 65535 ∧ accept rest s = .raised (s.raiseFault .countOverflow)) ∨
    (s.bits_consumed.toNat < 65535 ∧ accept rest s = .done (rest (countBit s))) := by
  unfold accept
  by_cases h : s.bits_consumed.toNat = 65535
  · exact .inl ⟨h, by simp [countFull, h]⟩
  · have := s.bits_consumed.isLt
    exact .inr ⟨by omega, by simp [countFull, h]⟩

/-- The count goes up by one where the counter is not full (R175). -/
theorem countBit_toNat {s : State} (h : s.bits_consumed.toNat < 65535) :
    (countBit s).bits_consumed.toNat = s.bits_consumed.toNat + 1 := by
  simp [BitVec.toNat_add]; omega

/-- The state a commit classifies in: the entry state, or its reset if the entry phase is FINISHING (R171, R173). -/
theorem commitEntry_cases (s : State) :
    (s.phase = .finishing ∧ commitEntry s = s.frameReset s.p_start) ∨ (s.phase ≠ .finishing ∧ commitEntry s = s) := by
  by_cases h : s.phase = .finishing
  · exact .inl ⟨h, by simp [commitEntry, finishExitOp, h]⟩
  · exact .inr ⟨h, by simp [commitEntry, h]⟩

/-- What a HEADER verdict says of the period (R141, R144). -/
theorem verdict_header {s : State} {pe : Sample} (h : s.verdict pe = .header) :
    s.p_start.toNat < s.p_mid.toNat ∧ s.p_mid.toNat < pe.toNat ∧
      s.cfg_rate.toNat ≤ 1000 * (pe.toNat - s.p_start.toNat) ∧ 2500 * (pe.toNat - s.p_start.toNat) ≤ 3 * s.cfg_rate.toNat := by
  unfold State.verdict at h
  obtain e | ⟨-, a, b⟩ | ⟨e, -⟩ := classify_cases s.p_start s.p_mid pe s.cfg_rate s.bits_consumed s.phase
  · simp [e] at h
  · rw [malformed_eq_false_iff] at a; rw [inHeaderRange_exact_iff] at b; omega
  · simp [e] at h

/-- What a FRAME_END verdict says of the period and the frame (R141, R145). -/
theorem verdict_frameEnd {s : State} {pe : Sample} (h : s.verdict pe = .frameEnd) :
    s.p_start.toNat < s.p_mid.toNat ∧ s.p_mid.toNat < pe.toNat ∧ 64 < s.bits_consumed.toNat ∧ s.phase = .reading := by
  unfold State.verdict at h
  obtain e | ⟨e, -⟩ | ⟨-, a, b⟩ := classify_cases s.p_start s.p_mid pe s.cfg_rate s.bits_consumed s.phase
  · simp [e] at h
  · simp [e] at h
  · rw [malformed_eq_false_iff] at a; rw [isFrameEnd_exact_iff] at b; exact ⟨a.1, a.2, b.1, b.2.2⟩

/-- Everything a commit can do, by the verdict in its entry state and the counter (R171, R191). -/
theorem commit_cases (pe : Sample) (s : State) :
    ((commitEntry s).verdict pe = .reject ∧ commit pe s = .done ((commitEntry s).frameReset pe)) ∨
    ((commitEntry s).verdict pe ≠ .reject ∧ (commitEntry s).bits_consumed.toNat = 65535 ∧
      commit pe s = .raised ((commitEntry s).raiseFault .countOverflow)) ∨
    ((commitEntry s).verdict pe = .header ∧ (commitEntry s).bits_consumed.toNat < 65535 ∧
      commit pe s = .done (headerRest (commitEntry s).periodBit pe (countBit (commitEntry s)))) ∨
    ((commitEntry s).verdict pe = .frameEnd ∧ (commitEntry s).bits_consumed.toNat < 65535 ∧
      commit pe s = .done (frameEndRest (commitEntry s).periodBit (countBit (commitEntry s)))) := by
  unfold commit headerOp frameEndOp rejectOp
  cases hv : (commitEntry s).verdict pe
  · simp
  · obtain ⟨h, e⟩ | ⟨h, e⟩ := accept_cases (headerRest (commitEntry s).periodBit pe) (commitEntry s) <;> simp [h, e]
  · obtain ⟨h, e⟩ | ⟨h, e⟩ := accept_cases (frameEndRest (commitEntry s).periodBit) (commitEntry s) <;> simp [h, e]

end Sys2Proof.Machine
end

