-- ==== Sys2Proof/Laws/Header.lean ====
section
/-! SUPPORT. Header: every field after the rest of a HEADER commit, in terms of the state whose count already includes the bit. -/

namespace Sys2Proof.Machine

/-- The byte register with the bit of this period shifted in (R178). -/
def shifted (b : BitVec 1) (u : State) : BitVec 8 := shiftInBit u.byte_acc b

/-- The encrypted word after byte completion at a multiple of 8 (R182). -/
def encInserted (b : BitVec 1) (u : State) : BitVec 32 :=
  if (u.bytes_consumed + 1).toNat ≤ 4 then insertByte u.enc_word (u.bytes_consumed + 1).toNat (shifted b u) else u.enc_word

theorem headerRest_bits_consumed (b : BitVec 1) (pe : Sample) (u : State) :
    (headerRest b pe u).bits_consumed = u.bits_consumed := by
  simp [headerRest]

theorem headerRest_phase (b : BitVec 1) (pe : Sample) (u : State) : (headerRest b pe u).phase = .reading := by
  simp [headerRest]

theorem headerRest_bit_position (b : BitVec 1) (pe : Sample) (u : State) : (headerRest b pe u).bit_position = pe := by
  simp [headerRest]

theorem headerRest_last_period_length (b : BitVec 1) (pe : Sample) (u : State) :
    (headerRest b pe u).last_period_length = pe - u.p_start := by
  simp [headerRest]

/-- No part of a HEADER commit writes the configuration, the control, the captured edges or what the host holds. -/
theorem headerRest_frame (b : BitVec 1) (pe : Sample) (u : State) :
    (headerRest b pe u).cfg_rate = u.cfg_rate ∧ (headerRest b pe u).cfg_pol = u.cfg_pol ∧ (headerRest b pe u).ctl = u.ctl ∧
    (headerRest b pe u).err = u.err ∧ (headerRest b pe u).p_start = u.p_start ∧ (headerRest b pe u).p_mid = u.p_mid ∧
    (headerRest b pe u).tokens = u.tokens ∧ (headerRest b pe u).sinkReady = u.sinkReady := by
  simp [headerRest]

theorem headerRest_byte_acc (b : BitVec 1) (pe : Sample) (u : State) :
    (headerRest b pe u).byte_acc = if u.bits_consumed.toNat % 8 = 0 then 0 else shifted b u := by
  by_cases h : u.bits_consumed.toNat % 8 = 0 <;> simp [headerRest, completeByte, byteReady, h, shifted]

theorem headerRest_byte_position (b : BitVec 1) (pe : Sample) (u : State) :
    (headerRest b pe u).byte_position = if u.bits_consumed.toNat % 8 = 0 then pe else u.byte_position := by
  by_cases h : u.bits_consumed.toNat % 8 = 0 <;> simp [headerRest, completeByte, byteReady, h]

theorem headerRest_bytes_consumed (b : BitVec 1) (pe : Sample) (u : State) :
    (headerRest b pe u).bytes_consumed =
      if u.bits_consumed.toNat % 8 = 0 then u.bytes_consumed + 1 else u.bytes_consumed := by
  by_cases h : u.bits_consumed.toNat % 8 = 0 <;> simp [headerRest, completeByte, byteReady, h]

theorem headerRest_enc_word (b : BitVec 1) (pe : Sample) (u : State) :
    (headerRest b pe u).enc_word =
      if u.bits_consumed.toNat = 32 then 0
      else if u.bits_consumed.toNat % 8 = 0 then encInserted b u else u.enc_word := by
  by_cases h32 : u.bits_consumed.toNat = 32
  · simp [headerRest, encPortion, portionReady, portionBit, h32]
  · by_cases h : u.bits_consumed.toNat % 8 = 0 <;>
      simp [headerRest, encPortion, portionReady, portionBit, completeByte, byteReady, h32, h, insertEnc_enc_word, shifted,
        encInserted, BitVec.toNat_add]

theorem headerRest_serial_acc (b : BitVec 1) (pe : Sample) (u : State) :
    (headerRest b pe u).serial_acc =
      if 32 < u.bits_consumed.toNat ∧ u.bits_consumed.toNat ≤ 60 then insertSerialBit u.serial_acc u.bits_consumed.toNat b
      else u.serial_acc := by
  simp [headerRest, serialBit_serial_acc]

theorem headerRest_button_acc (b : BitVec 1) (pe : Sample) (u : State) :
    (headerRest b pe u).button_acc =
      if 60 < u.bits_consumed.toNat ∧ u.bits_consumed.toNat ≤ 64 then insertButtonBit u.button_acc u.bits_consumed.toNat b
      else u.button_acc := by
  simp [headerRest, buttonBit_button_acc]

theorem headerRest_portion_position (b : BitVec 1) (pe : Sample) (u : State) :
    (headerRest b pe u).portion_position =
      if u.bits_consumed.toNat = 32 ∨ u.bits_consumed.toNat = 60 ∨ u.bits_consumed.toNat = 64 then pe
      else u.portion_position := by
  by_cases h1 : u.bits_consumed.toNat = 32
  · simp [headerRest, buttonPortion, serialPortion, encPortion, portionReady, portionBit, h1]
  by_cases h2 : u.bits_consumed.toNat = 60
  · simp [headerRest, buttonPortion, serialPortion, encPortion, portionReady, portionBit, h2]
  by_cases h3 : u.bits_consumed.toNat = 64 <;>
    simp [headerRest, buttonPortion, serialPortion, encPortion, portionReady, portionBit, h1, h2, h3]

/-- The events of a HEADER commit, in the order of their layers (R71). -/
theorem headerRest_trace (b : BitVec 1) (pe : Sample) (u : State) :
    (headerRest b pe u).trace = u.trace ++ [.bit u.bit_position pe b] ++
      (if u.bits_consumed.toNat % 8 = 0 then
        [.byte u.byte_position pe (shifted b u), .raw u.byte_position pe (shifted b u)] else []) ++
      (if u.bits_consumed.toNat = 32 then [.enc u.portion_position pe (encInserted b u)] else []) ++
      (if u.bits_consumed.toNat = 60 then
        [.serial u.portion_position pe (insertSerialBit u.serial_acc u.bits_consumed.toNat b)] else []) ++
      (if u.bits_consumed.toNat = 64 then
        [.button u.portion_position pe (insertButtonBit u.button_acc u.bits_consumed.toNat b)] else []) := by
  by_cases h1 : u.bits_consumed.toNat = 32
  · simp [headerRest, buttonPortion, serialPortion, encPortion, portionReady, portionBit, completeByte, byteReady, h1,
      insertEnc_enc_word, shifted, encInserted, BitVec.toNat_add]
  by_cases h2 : u.bits_consumed.toNat = 60
  · simp [headerRest, buttonPortion, serialPortion, encPortion, portionReady, portionBit, completeByte, byteReady, h2,
      serialBit_serial_acc]
  by_cases h3 : u.bits_consumed.toNat = 64
  · simp [headerRest, buttonPortion, serialPortion, encPortion, portionReady, portionBit, completeByte, byteReady, h3,
      buttonBit_button_acc, shifted]
  by_cases h : u.bits_consumed.toNat % 8 = 0 <;>
    simp [headerRest, buttonPortion, serialPortion, encPortion, portionReady, portionBit, completeByte, byteReady, h1, h2, h3,
      h, shifted]

end Sys2Proof.Machine
end

