-- ==== Sys2Proof/Laws/Step.lean ====
section
/-! SUPPORT. Step: one lemma that says once everything a step can do. -/

namespace Sys2Proof.Machine

/-- The operation a step runs, if it runs one (R15, R77, R87). -/
theorem fetch_cases (s : State) :
    (s.fetch = none ∧ (s.untaken ≠ 0 ∨ s.tokens = [])) ∨
    ∃ w rest, s.untaken = 0 ∧ s.tokens = w :: rest ∧ s.fetch = some (decodeToken s.ctl s.activeLevel w) := by
  unfold State.fetch State.backpressured
  cases hu : s.untaken <;> cases ht : s.tokens <;> simp

/-- Everything a step that answers a next state can do: wait, hold or ignore; latch the configuration; begin a session or raise
CONFIG_ERROR; take the synchronizing edge; capture the mid edge; commit a period. -/
theorem step_cases {s t : State} (h : step s = .next t) :
    t = s ∨
    ((s.ctl = .idle ∨ s.ctl = .waitSync ∨ s.ctl = .waitMid ∨ s.ctl = .waitEnd) ∧ s.tokens ≠ [] ∧ t = s.consume) ∨
    (s.ctl = .idle ∧ ∃ pol rate, t = { s.consume with cfg_rate := rate, cfg_pol := pol }) ∨
    (s.ctl = .idle ∧ s.cfg_rate = 0 ∧ t = s.consume.raiseFault .configError) ∨
    (s.ctl = .idle ∧ s.cfg_rate ≠ 0 ∧ t = { s.consume.frameReset 0 with ctl := .waitSync }) ∨
    (∃ w rest, s.tokens = w :: rest ∧ tokenKind w = .edge ∧ s.ctl = .waitSync ∧
      t = { s.consume.frameReset (tokenPayload w) with p_start := tokenPayload w, ctl := .waitMid }) ∨
    (∃ w rest, s.tokens = w :: rest ∧ tokenKind w = .edge ∧ s.ctl = .waitMid ∧
      t = { s.consume with p_mid := tokenPayload w, ctl := .waitEnd }) ∨
    (∃ w rest, s.tokens = w :: rest ∧ tokenKind w = .edge ∧ s.ctl = .waitEnd ∧
      t = endPeriod (tokenPayload w) (commit (tokenPayload w) s.consume)) := by
  unfold step at h
  obtain ⟨hf, -⟩ | ⟨w, rest, -, ht, hf⟩ := fetch_cases s
  · rw [hf] at h
    simp only [Host.Outcome.next.injEq] at h
    exact .inl h.symm
  rw [hf] at h
  simp only at h
  cases hc : s.ctl <;> cases hk : tokenKind w <;> by_cases hr : s.cfg_rate = 0 <;>
    by_cases hl : tokenLevel w = s.activeLevel <;>
    simp only [decodeToken, hc, hk, hl, if_true, if_false, exec] at h
  all_goals
    try simp only [execCfg, execStart, execEdgeDrop, execHold, execEdgeSkip, execEdgeSync, execEdgeMid, execEdgeEnd,
      execCfgIgnored, execStartIgnored, execRsv, execReservedCtl, hr, if_true, if_false] at h
  all_goals cases h
  all_goals first
    | exact .inl rfl
    | exact .inr (.inl ⟨by simp, by simp [ht], rfl⟩)
    | exact .inr (.inr (.inl ⟨rfl, _, _, rfl⟩))
    | exact .inr (.inr (.inr (.inl ⟨rfl, by assumption, rfl⟩)))
    | exact .inr (.inr (.inr (.inr (.inl ⟨rfl, by assumption, rfl⟩))))
    | exact .inr (.inr (.inr (.inr (.inr (.inl ⟨w, rest, ht, hk, rfl, rfl⟩)))))
    | exact .inr (.inr (.inr (.inr (.inr (.inr (.inl ⟨w, rest, ht, hk, rfl, rfl⟩))))))
    | exact .inr (.inr (.inr (.inr (.inr (.inr (.inr ⟨w, rest, ht, hk, rfl, rfl⟩))))))

/-- `step_cases` with the end edge taken apart: `e` is the state its commit classifies in. -/
theorem step_full_cases {s t : State} (h : step s = .next t) :
    t = s ∨
    ((s.ctl = .idle ∨ s.ctl = .waitSync ∨ s.ctl = .waitMid ∨ s.ctl = .waitEnd) ∧ t = s.consume) ∨
    (s.ctl = .idle ∧ ∃ pol rate, t = { s.consume with cfg_rate := rate, cfg_pol := pol }) ∨
    (s.ctl = .idle ∧ s.cfg_rate = 0 ∧ t = s.consume.raiseFault .configError) ∨
    (s.ctl = .idle ∧ s.cfg_rate ≠ 0 ∧ t = { s.consume.frameReset 0 with ctl := .waitSync }) ∨
    (s.ctl = .waitSync ∧ ∃ p, t = { s.consume.frameReset p with p_start := p, ctl := .waitMid }) ∨
    (s.ctl = .waitMid ∧ ∃ p, t = { s.consume with p_mid := p, ctl := .waitEnd }) ∨
    (s.ctl = .waitEnd ∧ ∃ pe e,
      ((s.phase = .finishing ∧ e = s.consume.frameReset s.p_start) ∨ (s.phase ≠ .finishing ∧ e = s.consume)) ∧
      ((e.verdict pe = .reject ∧ t = { e.frameReset pe with p_start := pe, ctl := .waitMid }) ∨
       (e.bits_consumed.toNat = 65535 ∧ e.verdict pe ≠ .reject ∧ t = e.raiseFault .countOverflow) ∨
       (e.bits_consumed.toNat < 65535 ∧ e.verdict pe = .header ∧
         t = { headerRest e.periodBit pe (countBit e) with p_start := pe, ctl := .waitMid }) ∨
       (e.bits_consumed.toNat < 65535 ∧ e.verdict pe = .frameEnd ∧
         t = { frameEndRest e.periodBit (countBit e) with p_start := pe, ctl := .waitMid }))) := by
  obtain h | ⟨h, -, h'⟩ | h | h | h | ⟨w, -, -, -, h, h'⟩ | ⟨w, -, -, -, h, h'⟩ | ⟨w, -, -, -, h, h'⟩ := step_cases h
  · exact .inl h
  · exact .inr (.inl ⟨h, h'⟩)
  · exact .inr (.inr (.inl h))
  · exact .inr (.inr (.inr (.inl h)))
  · exact .inr (.inr (.inr (.inr (.inl h))))
  · exact .inr (.inr (.inr (.inr (.inr (.inl ⟨h, _, h'⟩)))))
  · exact .inr (.inr (.inr (.inr (.inr (.inr (.inl ⟨h, _, h'⟩))))))
  · refine .inr (.inr (.inr (.inr (.inr (.inr (.inr
      ⟨h, tokenPayload w, commitEntry s.consume, commitEntry_cases s.consume, ?_⟩))))))
    obtain ⟨a, e⟩ | ⟨a, b, e⟩ | ⟨a, b, e⟩ | ⟨a, b, e⟩ := commit_cases (tokenPayload w) s.consume <;> rw [e] at h'
    · exact .inl ⟨a, h'⟩
    · exact .inr (.inl ⟨b, a, h'⟩)
    · exact .inr (.inr (.inl ⟨b, a, h'⟩))
    · exact .inr (.inr (.inr ⟨b, a, h'⟩))

end Sys2Proof.Machine
end

