-- ==== Sys2Proof/Laws/Taking.lean ====
section
/-! SUPPORT. Taking: each part of a commit leaves the events it emits to be taken (R77), from one lemma for one event. -/

namespace Sys2Proof.Machine

theorem LeavesToTake.refl (s : State) : LeavesToTake s s := ⟨Nat.le_refl _, rfl, by simp⟩

theorem LeavesToTake.trans {s t u : State} (h : LeavesToTake s t) (h' : LeavesToTake t u) : LeavesToTake s u := by
  obtain ⟨a, b, c⟩ := h
  obtain ⟨a', b', c'⟩ := h'
  refine ⟨a.trans a', b'.trans b, ?_⟩
  rw [c', c, b]
  split <;> omega

/-- One event is taken by an open sink and is one more to take with a closed one. -/
theorem emit_leavesToTake (e : Event) (s : State) : LeavesToTake s (s.emit e) := by
  refine ⟨by simp, rfl, ?_⟩
  simp

theorem headerBit_leavesToTake (b : BitVec 1) (pe : Sample) (s : State) : LeavesToTake s (headerBit b pe s) :=
  emit_leavesToTake (.bit s.bit_position pe b) s

theorem frameEndBit_leavesToTake (b : BitVec 1) (s : State) : LeavesToTake s (frameEndBit b s) :=
  emit_leavesToTake (.bit s.bit_position (backDatedEnd s.bit_position s.last_period_length) b) s

theorem shiftByte_leavesToTake (b : BitVec 1) (s : State) : LeavesToTake s (shiftByte b s) := LeavesToTake.refl s

theorem completeByte_leavesToTake (pe : Sample) (s : State) : LeavesToTake s (completeByte pe s) := by
  unfold completeByte
  split
  · have h : LeavesToTake s (emitByte pe s) :=
      (emit_leavesToTake (.byte s.byte_position pe s.byte_acc) s).trans (emit_leavesToTake (.raw s.byte_position pe s.byte_acc) _)
    unfold insertEnc
    split <;> exact h
  · exact LeavesToTake.refl s

theorem encPortion_leavesToTake (pe : Sample) (s : State) : LeavesToTake s (encPortion pe s) := by
  unfold encPortion
  split
  · exact emit_leavesToTake (.enc s.portion_position pe s.enc_word) s
  · exact LeavesToTake.refl s

theorem serialPortion_leavesToTake (pe : Sample) (s : State) : LeavesToTake s (serialPortion pe s) := by
  unfold serialPortion
  split
  · exact emit_leavesToTake (.serial s.portion_position pe s.serial_acc) s
  · exact LeavesToTake.refl s

theorem buttonPortion_leavesToTake (pe : Sample) (s : State) : LeavesToTake s (buttonPortion pe s) := by
  unfold buttonPortion
  split
  · exact emit_leavesToTake (.button s.portion_position pe s.button_acc) s
  · exact LeavesToTake.refl s

theorem serialBit_leavesToTake (b : BitVec 1) (s : State) : LeavesToTake s (serialBit b s) := by
  unfold serialBit
  split <;> exact LeavesToTake.refl s

theorem buttonBit_leavesToTake (b : BitVec 1) (s : State) : LeavesToTake s (buttonBit b s) := by
  unfold buttonBit
  split <;> exact LeavesToTake.refl s

/-- The rest of a HEADER commit leaves all its events to be taken. -/
theorem headerRest_leavesToTake (b : BitVec 1) (pe : Sample) (s : State) : LeavesToTake s (headerRest b pe s) :=
  (headerBit_leavesToTake b pe s).trans <| (shiftByte_leavesToTake b _).trans <| (completeByte_leavesToTake pe _).trans <|
    (encPortion_leavesToTake pe _).trans <| (serialBit_leavesToTake b _).trans <| (serialPortion_leavesToTake pe _).trans <|
      (buttonBit_leavesToTake b _).trans <| buttonPortion_leavesToTake pe _

/-- The rest of a FRAME_END commit leaves its event to be taken. -/
theorem frameEndRest_leavesToTake (b : BitVec 1) (s : State) : LeavesToTake s (frameEndRest b s) :=
  (frameEndBit_leavesToTake b s).trans (shiftByte_leavesToTake b _)

theorem countBit_leavesToTake (s : State) : LeavesToTake s (countBit s) := LeavesToTake.refl s

theorem commitEntry_leavesToTake (s : State) : LeavesToTake s (commitEntry s) := by
  obtain ⟨-, e⟩ | ⟨-, e⟩ := commitEntry_cases s <;> rw [e]
  · exact LeavesToTake.refl s
  · exact LeavesToTake.refl s

/-- A commit leaves all its events to be taken, whichever way it ends. -/
theorem commit_leavesToTake (pe : Sample) (s : State) : LeavesToTake s (commit pe s).state := by
  refine (commitEntry_leavesToTake s).trans ?_
  generalize hu : commitEntry s = u
  obtain ⟨-, e⟩ | ⟨-, -, e⟩ | ⟨-, -, e⟩ | ⟨-, -, e⟩ := commit_cases pe s <;> rw [e, hu, Flow.state]
  · exact LeavesToTake.refl u
  · exact LeavesToTake.refl u
  · exact (countBit_leavesToTake u).trans (headerRest_leavesToTake u.periodBit pe (countBit u))
  · exact (countBit_leavesToTake u).trans (frameEndRest_leavesToTake u.periodBit (countBit u))

/-- Starting the next period emits nothing. -/
theorem endPeriod_leavesToTake {s : State} {f : Flow State} (pe : Sample) (h : LeavesToTake s f.state) :
    LeavesToTake s (endPeriod pe f) := by
  cases f <;> exact h

end Sys2Proof.Machine
end

