-- ==== Sys2Proof/Laws/Parametric.lean ====
section
/-! SUPPORT. Parametric: what each shared operation of this hardware is in the parametric block, one lemma per operation, and what a
commit of the parametric block can do. -/

namespace Sys2Proof.Machine

/-! ## The shared operations -/

@[simp] theorem toParam_consume (s : State) : s.consume.toParam = s.toParam.consume := by
  simp [State.toParam, ParamState.consume, List.map_tail]

@[simp] theorem toParam_frameReset (cur : Sample) (s : State) :
    (s.frameReset cur).toParam = s.toParam.frameReset cur.toNat := rfl

@[simp] theorem toParam_raiseFault (f : Err) (s : State) : (s.raiseFault f).toParam = s.toParam.raiseFault f := rfl

/-- The state an end edge leaves, in the parametric block. -/
theorem toParam_endPeriod_done (pe : Sample) (s : State) :
    (endPeriod pe (.done s)).toParam = { s.toParam with p_start := pe.toNat, ctl := .waitMid } := rfl

theorem isFull_hardware (n : BitVec 16) : Width.isFull Config.hardware.BITS_W n.toNat = countFull n := rfl

/-! ## The commit -/

/-- A FRAME_END in the parametric block (R177). -/
theorem toParam_frameEndRest {s : State} (b : BitVec 1) (h : s.bits_consumed.toNat < 65535) :
    (frameEndRest b (countBit s)).toParam = paramFrameEnd Config.hardware b (s.bits_consumed.toNat + 1) s.toParam := by
  have hn : (frameEndRest b (countBit s)).bits_consumed.toNat = s.bits_consumed.toNat + 1 := by
    simpa [frameEndRest] using countBit_toNat h
  simp only [State.toParam, hn]
  simp [frameEndRest, paramFrameEnd, ParamState.emit, eventRecord, Params.endpoint, Width.fit, Config.hardware, BitVec.toNat_add]
  rfl

/-- The events of a HEADER, in the parametric block. -/
theorem headerRest_trace_records {s : State} (b : BitVec 1) (pe : Sample) (h : s.bits_consumed.toNat < 65535) :
    (headerRest b pe (countBit s)).trace.map eventRecord =
      (paramHeader Config.hardware b pe.toNat (s.bits_consumed.toNat + 1) s.toParam).trace := by
  have hm : (s.bytes_consumed + 1).toNat = Width.fit Config.hardware.BYTES_W (s.bytes_consumed.toNat + 1) := by
    simp [Width.fit, Config.hardware, BitVec.toNat_add]
  rw [headerRest_trace, countBit_toNat h]
  simp only [encInserted, shifted, countBit_bytes_consumed, countBit_byte_acc, countBit_enc_word, countBit_serial_acc,
    countBit_button_acc, countBit_bit_position, countBit_byte_position, countBit_portion_position, countBit_trace, hm, paramHeader,
    ParamState.emit, State.toParam, List.map_append, apply_ite (List.map eventRecord), List.map_cons, List.map_nil, eventRecord]
  generalize s.bits_consumed.toNat + 1 = n
  by_cases h60 : n = 60
  · simp [h60]
  by_cases h64 : n = 64
  · simp [h64]
  by_cases h32 : n = 32
  · simp [h32]
  · simp [h60, h64, h32]

/-- A HEADER in the parametric block: the layers of 42_assembler.md make R191's listing. -/
theorem toParam_headerRest {s : State} (b : BitVec 1) {pe : Sample} (h : s.bits_consumed.toNat < 65535)
    (hp : s.p_start.toNat ≤ pe.toNat) :
    (headerRest b pe (countBit s)).toParam =
      paramHeader Config.hardware b pe.toNat (s.bits_consumed.toNat + 1) s.toParam := by
  have hn := countBit_toNat h
  have hm : (s.bytes_consumed + 1).toNat = Width.fit Config.hardware.BYTES_W (s.bytes_consumed.toNat + 1) := by
    simp [Width.fit, Config.hardware, BitVec.toNat_add]
  have hl : (pe - s.p_start).toNat = pe.toNat - s.p_start.toNat := by bv_omega
  have ht := headerRest_trace_records b pe h
  have hc : (headerRest b pe (countBit s)).trace.length - s.trace.length =
      (paramHeader Config.hardware b pe.toNat (s.bits_consumed.toNat + 1) s.toParam).trace.length - s.trace.length := by
    rw [← ht, List.length_map]
  obtain ⟨f1, f2, f3, f4, f5, f6, f7, f8⟩ := headerRest_frame b pe (countBit s)
  obtain ⟨-, -, hu⟩ := headerRest_leavesToTake b pe (countBit s)
  rw [countBit_sinkReady, countBit_untaken, countBit_trace, hc] at hu
  rw [State.toParam, ht, hu]
  simp only [paramHeader, ParamState.emit, State.toParam, ParamState.mk.injEq, f1, f2, f3, f4, f5, f6, f7, f8,
    headerRest_bits_consumed, headerRest_phase, headerRest_bit_position, headerRest_last_period_length, headerRest_byte_acc,
    headerRest_byte_position, headerRest_bytes_consumed, headerRest_enc_word, headerRest_serial_acc, headerRest_button_acc,
    headerRest_portion_position, hn, encInserted, shifted, countBit_bytes_consumed, hm, countBit_p_start, hl, countBit_byte_acc,
    countBit_enc_word, countBit_serial_acc, countBit_button_acc, countBit_byte_position, countBit_portion_position,
    apply_ite BitVec.toNat, List.length_append, List.length_map, countBit_cfg_rate, countBit_cfg_pol, countBit_ctl,
    countBit_err, countBit_p_mid, countBit_tokens, countBit_sinkReady, Nat.add_sub_cancel_left, true_and, and_true]
  clear hn hm hl ht hc hu f1 f2 f3 f4 f5 f6 f7 f8
  grind

/-- The state a commit classifies in, in the parametric block. -/
theorem toParam_commitEntry (s : State) :
    (commitEntry s).toParam = if s.toParam.phase = .finishing then s.toParam.frameReset s.toParam.p_start else s.toParam := by
  obtain ⟨h, e⟩ | ⟨h, e⟩ := commitEntry_cases s <;> rw [e]
  · rw [if_pos (show s.toParam.phase = .finishing from h)]; rfl
  · rw [if_neg (show s.toParam.phase ≠ .finishing from h)]

/-- EDGE.END in the parametric block, by the cases of a commit. -/
theorem toParam_edgeEnd (pe : Sample) (s : State) :
    (endPeriod pe (commit pe s)).toParam = paramEdgeEnd Config.hardware pe.toNat s.toParam := by
  have hv : classifyWith Config.hardware.THRESHOLD_ARITH (commitEntry s).toParam.p_start (commitEntry s).toParam.p_mid pe.toNat
      (commitEntry s).toParam.cfg_rate (commitEntry s).toParam.bits_consumed (commitEntry s).toParam.phase =
      (commitEntry s).verdict pe := rfl
  have hb : bitValueWith Config.hardware.THRESHOLD_ARITH (commitEntry s).toParam.p_start (commitEntry s).toParam.p_mid
      (commitEntry s).toParam.cfg_rate = (commitEntry s).periodBit := rfl
  have hf : Width.isFull Config.hardware.BITS_W (commitEntry s).toParam.bits_consumed =
      countFull (commitEntry s).bits_consumed := rfl
  unfold paramEdgeEnd paramCommit
  rw [← toParam_commitEntry, paramClassified, hv, hb, hf]
  have notFull (n : (commitEntry s).bits_consumed.toNat < 65535) : countFull (commitEntry s).bits_consumed = false := by
    rw [Bool.eq_false_iff, Ne, countFull_iff]; omega
  obtain ⟨v, e⟩ | ⟨v, n, e⟩ | ⟨v, n, e⟩ | ⟨v, n, e⟩ := commit_cases pe s <;> rw [e]
  · rw [v]; rfl
  · have full := (countFull_iff _).2 n
    cases hh : (commitEntry s).verdict pe
    · exact absurd hh v
    · simp only [full, if_true]; rfl
    · simp only [full, if_true]; rfl
  · have hp := verdict_header v
    simp only [v, notFull n, toParam_endPeriod_done, toParam_headerRest (commitEntry s).periodBit n (pe := pe) (by omega)]
    rfl
  · simp only [v, notFull n, toParam_endPeriod_done, toParam_frameEndRest (commitEntry s).periodBit n]
    rfl

end Sys2Proof.Machine
end

