-- ==== Sys2Proof/Laws/PerInstr.lean ====
section
/-! SUPPORT. PerInstr: the encoding of every well-formed instruction carries the fixed bits of its row of spec/opcode_table.json,
one lemma per constructor. -/

namespace Sys2Proof.Laws.EncodeMatchesTable

/-- The bits of a code that the opcode table numbers: a dispatch key, a period code, an event header byte. -/
def tableBits : Code → Nat
  | .token c a w => (dispatchKey c a w).toNat
  | .entryPhase code => code.toNat
  | .verdict code _ => code.toNat
  | .event w => (eventCh w ++ eventPid w ++ eventReserved w).toNat

/-- The (mask, match) pairs of an instruction's row of the opcode table, one for each value of a restricted field. -/
def tableRows : Instr → List (Nat × Nat)
  | .cfg .. => [(0b111110, 0b000100)]
  | .start => [(0b111110, 0b000010)]
  | .edgeDrop .. => [(0b111110, 0b000000)]
  | .hold .. => [(0b111000, 0b100000)]
  | .edgeSkip .. => [(0b111111, 0b001000)]
  | .edgeSync .. => [(0b111111, 0b001001)]
  | .edgeMid .. => [(0b111110, 0b010000)]
  | .edgeEnd .. => [(0b111110, 0b011000)]
  | .cfgIgnored .. => [(0b111110, 0b001100), (0b111110, 0b010100), (0b111110, 0b011100)]
  | .startIgnored .. => [(0b111110, 0b001010), (0b111110, 0b010010), (0b111110, 0b011010)]
  | .rsv .. => [(0b100110, 0b000110)]
  | .reservedCtl .. => [(0b111000, 0b101000), (0b110000, 0b110000)]
  | .finishExit => [(0b11, 0b10)]
  | .reject .. => [(0b11, 0b00)]
  | .header .. => [(0b11, 0b01)]
  | .frameEnd .. => [(0b11, 0b10)]
  | .verdictReserved .. => [(0b11, 0b11)]
  | .evBit .. => [(0xFF, 0x00)]
  | .evByte .. => [(0xFF, 0x20)]
  | .evPortionEnc .. => [(0xFF, 0x40)]
  | .evPortionSerial .. => [(0xFF, 0x48)]
  | .evPortionButton .. => [(0xFF, 0x50)]
  | .evRaw .. => [(0xFF, 0x60)]
  | .evMeta .. => [(0xFF, 0x80)]

/-- The encoding of `i` carries the fixed bits of its row. -/
def Statement (i : Instr) : Prop := i.wf = true → ∃ r ∈ tableRows i, tableBits (encode i) &&& r.1 = r.2

theorem cfg (pol : Polarity) (rate : Rate) : Statement (.cfg pol rate) := by
  intro _
  simp only [tableRows, List.mem_singleton, exists_eq_left, encode, tableBits, dispatchKey, cfgToken, tokenKind_mkToken,
    tokenMatches, tokenLevel, tokenL_mkToken]
  cases pol <;> decide

theorem start : Statement (.start) := by
  intro _; decide

theorem edgeDrop (level : Level) (sample : Sample) : Statement (.edgeDrop level sample) := by
  intro _
  simp only [tableRows, List.mem_singleton, exists_eq_left, encode, tableBits, dispatchKey, edgeToken, tokenKind_mkToken,
    tokenMatches, tokenLevel, tokenL_mkToken]
  cases level <;> decide

theorem hold (tok : TokenWord) : Statement (.hold tok) := by
  intro _
  refine ⟨_, List.mem_singleton.2 rfl, ?_⟩
  simp only [encode, tableBits, dispatchKey]
  generalize (tokenKind tok).code = k
  generalize tokenMatches .high tok = m
  revert k m; decide

theorem edgeSkip (level : Level) (sample : Sample) : Statement (.edgeSkip level sample) := by
  intro _
  simp only [tableRows, List.mem_singleton, exists_eq_left, encode, tableBits, dispatchKey, edgeToken, tokenKind_mkToken,
    tokenMatches, tokenLevel, tokenL_mkToken]
  cases level <;> decide

theorem edgeSync (level : Level) (sample : Sample) : Statement (.edgeSync level sample) := by
  intro _
  simp only [tableRows, List.mem_singleton, exists_eq_left, encode, tableBits, dispatchKey, edgeToken, tokenKind_mkToken,
    tokenMatches, tokenLevel, tokenL_mkToken]
  cases level <;> decide

theorem edgeMid (level : Level) (sample : Sample) : Statement (.edgeMid level sample) := by
  intro _
  simp only [tableRows, List.mem_singleton, exists_eq_left, encode, tableBits, dispatchKey, edgeToken, tokenKind_mkToken,
    tokenMatches, tokenLevel, tokenL_mkToken]
  cases level <;> decide

theorem edgeEnd (level : Level) (sample : Sample) : Statement (.edgeEnd level sample) := by
  intro _
  simp only [tableRows, List.mem_singleton, exists_eq_left, encode, tableBits, dispatchKey, edgeToken, tokenKind_mkToken,
    tokenMatches, tokenLevel, tokenL_mkToken]
  cases level <;> decide

theorem cfgIgnored (cc : BitVec 2) (pol : Polarity) (rate : Rate) : Statement (.cfgIgnored cc pol rate) := by
  simp only [Statement, Instr.wf, encode, tableBits, dispatchKey, tableRows, cfgToken, tokenKind_mkToken, tokenMatches, tokenLevel,
    tokenL_mkToken]
  revert cc; cases pol <;> decide

theorem startIgnored (cc : BitVec 2) : Statement (.startIgnored cc) := by
  unfold Statement; revert cc; decide

theorem rsv (cc : BitVec 2) : Statement (.rsv cc) := by
  unfold Statement; revert cc; decide

theorem reservedCtl (cc : BitVec 2) (tok : TokenWord) : Statement (.reservedCtl cc tok) := by
  simp only [Statement, Instr.wf, encode, tableBits, dispatchKey, tableRows]
  generalize (tokenKind tok).code = k
  generalize tokenMatches .high tok = m
  revert cc k m; decide

theorem finishExit : Statement (.finishExit) := by
  intro _; exact ⟨_, List.mem_singleton.2 rfl, by rw [encode, tableBits]; decide⟩

theorem reject (pe : Sample) : Statement (.reject pe) := by
  intro _; exact ⟨_, List.mem_singleton.2 rfl, by rw [encode, tableBits]; decide⟩

theorem header (pe : Sample) : Statement (.header pe) := by
  intro _; exact ⟨_, List.mem_singleton.2 rfl, by rw [encode, tableBits]; decide⟩

theorem frameEnd (pe : Sample) : Statement (.frameEnd pe) := by
  intro _; exact ⟨_, List.mem_singleton.2 rfl, by rw [encode, tableBits]; decide⟩

theorem verdictReserved (pe : Sample) : Statement (.verdictReserved pe) := by
  intro _; exact ⟨_, List.mem_singleton.2 rfl, by rw [encode, tableBits]; decide⟩

theorem evBit (a : Sample) (b : Sample) (v : BitVec 1) : Statement (.evBit a b v) := by
  intro _
  simp only [tableRows, List.mem_singleton, exists_eq_left, encode, Event.word, tableBits, eventCh_mkEventWord,
    eventPid_mkEventWord, eventReserved_mkEventWord]
  decide

theorem evByte (a : Sample) (b : Sample) (v : BitVec 8) : Statement (.evByte a b v) := by
  intro _
  simp only [tableRows, List.mem_singleton, exists_eq_left, encode, Event.word, tableBits, eventCh_mkEventWord,
    eventPid_mkEventWord, eventReserved_mkEventWord]
  decide

theorem evPortionEnc (a : Sample) (b : Sample) (v : BitVec 32) : Statement (.evPortionEnc a b v) := by
  intro _
  simp only [tableRows, List.mem_singleton, exists_eq_left, encode, Event.word, tableBits, eventCh_mkEventWord,
    eventPid_mkEventWord, eventReserved_mkEventWord]
  decide

theorem evPortionSerial (a : Sample) (b : Sample) (v : BitVec 28) : Statement (.evPortionSerial a b v) := by
  intro _
  simp only [tableRows, List.mem_singleton, exists_eq_left, encode, Event.word, tableBits, eventCh_mkEventWord,
    eventPid_mkEventWord, eventReserved_mkEventWord]
  decide

theorem evPortionButton (a : Sample) (b : Sample) (v : BitVec 4) : Statement (.evPortionButton a b v) := by
  intro _
  simp only [tableRows, List.mem_singleton, exists_eq_left, encode, Event.word, tableBits, eventCh_mkEventWord,
    eventPid_mkEventWord, eventReserved_mkEventWord]
  decide

theorem evRaw (a : Sample) (b : Sample) (v : BitVec 8) : Statement (.evRaw a b v) := by
  intro _
  simp only [tableRows, List.mem_singleton, exists_eq_left, encode, Event.word, tableBits, eventCh_mkEventWord,
    eventPid_mkEventWord, eventReserved_mkEventWord]
  decide

theorem evMeta (a : Sample) (b : Sample) (v : BitVec 32) : Statement (.evMeta a b v) := by
  intro _
  simp only [tableRows, List.mem_singleton, exists_eq_left, encode, tableBits, eventCh_mkEventWord,
    eventPid_mkEventWord, eventReserved_mkEventWord]
  decide

end Sys2Proof.Laws.EncodeMatchesTable
end

