-- ==== Sys2Proof/Machine/Render.lean ====
section
/-! DEFINITION. Render: the host-side texts of the events and the annotation rows (30_encoding.md R98 to R102, and the notations of
R90 and R103). No rule of the block reads them (R6, log 13). -/

namespace Sys2Proof.Machine

/-- One uppercase hexadecimal digit (R99, R100). -/
def hexDigit (n : Nat) : Char :=
  if n % 16 < 10 then Char.ofNat (48 + n % 16) else Char.ofNat (55 + n % 16)

/-- `digits` uppercase hexadecimal digits, zero-padded (R99, R100). -/
def hexDigits : Nat → Nat → List Char
  | 0, _ => []
  | d + 1, v => hexDigits d (v / 16) ++ [hexDigit v]

/-- The annotation rows, in their order (R101). -/
inductive AnnotationRow
  | pwmBits
  | keeloqBytes
  | keeloqPortions
  deriving DecidableEq, Repr

/-- The row an event is shown on; a raw byte goes to the raw-file sink and has none (R91, R101, R102). -/
def eventRow : Event → Option AnnotationRow
  | .bit .. => some .pwmBits
  | .byte .. => some .keeloqBytes
  | .raw .. => none
  | .enc .. | .serial .. | .button .. => some .keeloqPortions

/-- The title of an annotation row (R91). -/
def rowTitle : AnnotationRow → String
  | .pwmBits => "PWM bits"
  | .keeloqBytes => "KeeLoq bytes"
  | .keeloqPortions => "KeeLoq portions"

/-- The text before a portion's digits (R100). -/
def portionLabel : Portion → String
  | .enc => "encrypted word = 0x"
  | .serial => "serial = 0x"
  | .button => "button = 0x"

/-- The digits of an event's text: a bit's value in decimal (R98), a byte's two digits (R99), a portion's 8, 7 or 1 (R100). -/
def eventDigits : Event → List Char
  | .bit _ _ v => hexDigits 1 v.toNat
  | .byte _ _ v => hexDigits 2 v.toNat
  | .raw _ _ v => hexDigits 2 v.toNat
  | .enc _ _ v => hexDigits 8 v.toNat
  | .serial _ _ v => hexDigits 7 v.toNat
  | .button _ _ v => hexDigits 1 v.toNat

/-- The text the host shows for an event; a raw byte has none (R98 to R102). -/
def eventText : Event → Option String
  | .bit a b v => some (String.ofList (eventDigits (.bit a b v)))
  | .byte a b v => some (String.ofList (eventDigits (.byte a b v)))
  | .raw .. => none
  | .enc a b v => some (portionLabel .enc ++ String.ofList (eventDigits (.enc a b v)))
  | .serial a b v => some (portionLabel .serial ++ String.ofList (eventDigits (.serial a b v)))
  | .button a b v => some (portionLabel .button ++ String.ofList (eventDigits (.button a b v)))

/-- A token as `HH:PPPPPPPPPPPPPPPP` (R80). -/
def tokenNotation (w : TokenWord) : String :=
  String.ofList (hexDigits 2 (w.toNat / 2 ^ 64) ++ [':'] ++ hexDigits 16 w.toNat)

/-- An event as `HH:SSSSSSSSSSSSSSSS:EEEEEEEEEEEEEEEE:VVVVVVVV` (R90). -/
def eventNotation (e : Event) : String :=
  String.ofList (hexDigits 2 (e.word.toNat / 2 ^ 160) ++ [':'] ++ hexDigits 16 (e.word.toNat / 2 ^ 96) ++ [':'] ++
    hexDigits 16 (e.word.toNat / 2 ^ 32) ++ [':'] ++ hexDigits 8 e.word.toNat)

/-- An event's span as `[a,b]`, in decimal (R103). -/
def spanNotation (start stop : Sample) : String := "[" ++ toString start.toNat ++ "," ++ toString stop.toNat ++ "] "

/-- An event as a line of a trace (R103). -/
def eventLine : Event → String
  | .bit a b v => "BIT " ++ spanNotation a b ++ String.ofList (eventDigits (.bit a b v))
  | .byte a b v => "BYTE " ++ spanNotation a b ++ "0x" ++ String.ofList (eventDigits (.byte a b v))
  | .raw a b v => "RAW " ++ spanNotation a b ++ "0x" ++ String.ofList (eventDigits (.raw a b v))
  | .enc a b v => "ENC " ++ spanNotation a b ++ "0x" ++ String.ofList (eventDigits (.enc a b v))
  | .serial a b v => "SERIAL " ++ spanNotation a b ++ "0x" ++ String.ofList (eventDigits (.serial a b v))
  | .button a b v => "BUTTON " ++ spanNotation a b ++ "0x" ++ String.ofList (eventDigits (.button a b v))

end Sys2Proof.Machine
end

