-- ==== Sys2Proof/Machine/Stream.lean ====
section
/-! DEFINITION. Stream: the token stream's notation and its pseudo-operations (30_encoding.md R103, R104). They belong to whoever
writes a stream; the block never sees them.

DESIGN CHOICE: the cursor and the samples `c+D` and `c+P` of an expansion are sums modulo 2^64. R104 names no wrap, R12's arithmetic is
exact, and no token holds a sample past 2^SAMPLE_W - 1, so the spec leaves open what an expansion gives there (log 19). -/

namespace Sys2Proof.Machine

/-- One line of a token stream (R103). -/
inductive StreamLine
  | cfg (rate : Rate) (pol : Polarity)
  | start
  | edge (sample : Sample) (level : Level)
  | rsv (payload : BitVec 64)
  deriving DecidableEq, Repr

/-- The token a line stands for (R103). -/
def StreamLine.word : StreamLine → TokenWord
  | .cfg rate pol => cfgToken pol rate
  | .start => startToken
  | .edge sample level => edgeToken level sample
  | .rsv payload => rsvToken payload

/-- A line or a pseudo-operation (R104). -/
inductive StreamOp
  | line (l : StreamLine)
  /-- `SYNC <s>`. -/
  | sync (sample : Sample)
  /-- `PERIOD <P> <D>`. -/
  | period (len duty : Sample)
  /-- `BITS <P> <D0> <D1> <bits>`. -/
  | bits (len duty0 duty1 : Sample) (bs : List (BitVec 1))
  deriving DecidableEq, Repr

/-- `PERIOD <P> <D>` at cursor `c`: the edge to the inactive level at `c+D`, the edge to the active level at `c+P` (R104),
each sum modulo 2^64 (DESIGN CHOICE, log 19). -/
def expandPeriod (active : Level) (len duty c : Sample) : List StreamLine :=
  [.edge (c + duty) active.other, .edge (c + len) active]

/-- `BITS` at cursor `c`: one PERIOD per character, left to right (R104), the cursor modulo 2^64 (DESIGN CHOICE, log 19). -/
def expandBits (active : Level) (len duty0 duty1 : Sample) : Sample → List (BitVec 1) → List StreamLine
  | _, [] => []
  | c, b :: bs =>
    expandPeriod active len (if b = 0#1 then duty0 else duty1) c ++ expandBits active len duty0 duty1 (c + len) bs

/-- The cursor after a pseudo-operation (R104), modulo 2^64 (DESIGN CHOICE, log 19). -/
def StreamOp.advance (c : Sample) : StreamOp → Sample
  | .line _ => c
  | .sync sample => sample
  | .period len _ => c + len
  | .bits len _ _ bs => c + BitVec.ofNat 64 bs.length * len

/-- The lines a pseudo-operation stands for at cursor `c` (R104). -/
def StreamOp.expand (active : Level) (c : Sample) : StreamOp → List StreamLine
  | .line l => [l]
  | .sync sample => [.edge sample active]
  | .period len duty => expandPeriod active len duty c
  | .bits len duty0 duty1 bs => expandBits active len duty0 duty1 c bs

/-- The tokens of a stream, the cursor starting at `c` (R103, R104). -/
def expandStream (active : Level) : Sample → List StreamOp → List TokenWord
  | _, [] => []
  | c, o :: os => (o.expand active c).map StreamLine.word ++ expandStream active (o.advance c) os

end Sys2Proof.Machine
end

