-- ==== Sys2Proof/Tests/Slice0.lean ====
section
/-! SUPPORT. Slice0: the model's own tests. Expected values are the vectors of 95_test_vectors.md (their ids `V-...`), the tables of
30_encoding.md, or hand calculation from the rule named; then one witness for every obligation that has hypotheses. -/

namespace Sys2Proof.Machine.Tests

open Sys2Proof Sys2Proof.Machine

/-! ## Helpers -/

/-- A token written as its header byte and its payload (R80). -/
def tok (hdr : BitVec 8) (payload : BitVec 64) : TokenWord := hdr ++ payload

/-- An event word written as header byte, start, end and value (R90). -/
def evw (hdr : BitVec 8) (a b : BitVec 64) (v : BitVec 32) : EventWord := hdr ++ a ++ b ++ v

/-- The next state of an outcome, if there is one. -/
def next? : Host.Outcome State Fault Refusal → Option State
  | .next s => some s
  | .fault _ => none
  | .refused _ => none

/-- The fault of an outcome, if there is one. -/
def fault? : Host.Outcome State Fault Refusal → Option Fault
  | .next _ => none
  | .fault f => some f
  | .refused _ => none

/-- The refusal of an outcome, if there is one. -/
def refusal? : Host.Outcome State Fault Refusal → Option Refusal
  | .next _ => none
  | .fault _ => none
  | .refused r => some r

/-- A session at 1 MHz, active-high, in control state `c`, with one token offered. -/
def session (c : Ctl) (w : TokenWord) : State := { State.reset with cfg_rate := 1000000, ctl := c, tokens := [w] }

/-- A frame being read with `n` bits accepted, its period running from `ps` with mid edge `pm`, the end edge `pe` offered. -/
def frame (n : BitVec 16) (ps pm pe : Sample) : State :=
  { session .waitEnd (edgeToken .high pe) with
    phase := .reading, bits_consumed := n, bytes_consumed := (n / 8).setWidth 13, p_start := ps, p_mid := pm,
    bit_position := ps, byte_position := ps, portion_position := ps, last_period_length := 1100 }

/-! ## WellFormed: each check refuses an ill-formed term (R88) -/

theorem test_wf_refuses_cfgIgnored_outside_session : (Instr.cfgIgnored 0 .activeHigh 5).wf = false := by decide
theorem test_wf_refuses_startIgnored_outside_session : (Instr.startIgnored 0).wf = false := by decide
theorem test_wf_refuses_reservedCtl_of_halt : (Instr.reservedCtl 0 0).wf = false := by decide
theorem test_wf_accepts_rsv_in_idle : (Instr.rsv 0).wf = true := by decide

/-! ## Decoding of words written out from the spec (R80 to R93, V-E1 to V-E12) -/

theorem test_decode_cfg_high : decodeToken .idle .high (tok 0x80 0xF4240) = .cfg .activeHigh 1000000 := by decide
theorem test_decode_cfg_low : decodeToken .idle .high (tok 0xA0 0x3D090) = .cfg .activeLow 250000 := by decide
theorem test_decode_start : decodeToken .idle .high (tok 0x40 0) = .start := by decide
theorem test_decode_start_ignores_L_and_payload : decodeToken .idle .low (tok 0x60 0xFFFF) = .start := by decide
theorem test_decode_edgeDrop : decodeToken .idle .high (tok 0x20 0x114F4) = .edgeDrop .high 70900 := by decide
theorem test_decode_hold : decodeToken .halt .high (tok 0x20 0x64) = .hold (tok 0x20 0x64) := by decide
theorem test_decode_edgeSkip : decodeToken .waitSync .high (tok 0x00 0x1F4) = .edgeSkip .low 500 := by decide
theorem test_decode_edgeSync : decodeToken .waitSync .high (tok 0x20 0x1F4) = .edgeSync .high 500 := by decide
theorem test_decode_edgeSync_active_low : decodeToken .waitSync .low (tok 0x00 0x1F4) = .edgeSync .low 500 := by decide
theorem test_decode_edgeMid : decodeToken .waitMid .high (tok 0x00 0x320) = .edgeMid .low 800 := by decide
theorem test_decode_edgeEnd : decodeToken .waitEnd .high (tok 0x20 0x640) = .edgeEnd .high 1600 := by decide
theorem test_decode_cfgIgnored : decodeToken .waitMid .high (tok 0xA0 5) = .cfgIgnored 0b10 .activeLow 5 := by decide
theorem test_decode_startIgnored : decodeToken .waitEnd .high (tok 0x40 0) = .startIgnored 0b11 := by decide
theorem test_decode_rsv : decodeToken .waitSync .high (tok 0xC0 0) = .rsv 0b01 := by decide
theorem test_decode_reservedCtl : decodeToken .reserved5 .high (tok 0x40 0) = .reservedCtl 0b01 (tok 0x40 0) := by decide
theorem test_decode_ignores_reserved_header_bits : decodeToken .idle .high (tok 0x9F 7) = .cfg .activeHigh 7 := by decide

theorem test_decode_finishExit : (decode (.entryPhase 0b10)).toOption = some .finishExit := by decide
theorem test_decode_no_period_operation : (decode (.entryPhase 0b01)).toOption = none := by decide
theorem test_decode_reject : (decode (.verdict 0b00 9)).toOption = some (.reject 9) := by decide
theorem test_decode_header : (decode (.verdict 0b01 9)).toOption = some (.header 9) := by decide
theorem test_decode_frameEnd : (decode (.verdict 0b10 9)).toOption = some (.frameEnd 9) := by decide
theorem test_decode_verdictReserved : (decode (.verdict 0b11 9)).toOption = some (.verdictReserved 9) := by decide

theorem test_decode_evBit : (decode (.event (evw 0x00 0x1F4 0x640 1))).toOption = some (.evBit 500 1600 1) := by decide
theorem test_decode_evByte : (decode (.event (evw 0x20 0x1F4 0x2454 0x55))).toOption = some (.evByte 500 9300 0x55) := by decide
theorem test_decode_evRaw : (decode (.event (evw 0x60 0x1F4 0x2454 0x55))).toOption = some (.evRaw 500 9300 0x55) := by decide
theorem test_decode_evPortionEnc : (decode (.event (evw 0x40 0x1F4 0x8B74 0x55555555))).toOption =
    some (.evPortionEnc 500 35700 0x55555555) := by decide
theorem test_decode_evPortionSerial : (decode (.event (evw 0x48 0x8B74 0x103C4 0x05555555))).toOption =
    some (.evPortionSerial 35700 66500 0x5555555) := by decide
theorem test_decode_evPortionButton : (decode (.event (evw 0x50 0x103C4 0x114F4 5))).toOption =
    some (.evPortionButton 66500 70900 5) := by decide
theorem test_decode_evMeta : (decode (.event (evw 0x80 1 2 3))).toOption = some (.evMeta 1 2 3) := by decide

/-- The error of a decoding, if it is rejected. -/
def bad? : Except BadCode Instr → Option BadCode
  | .ok _ => none
  | .error e => some e

theorem test_decode_rejects_reserved_channel : bad? (decode (.event (evw 0xA0 1 2 3))) = some .reservedChannel := by decide
theorem test_decode_rejects_reserved_portion : bad? (decode (.event (evw 0x58 1 2 3))) = some .reservedPortionId := by decide
theorem test_decode_rejects_pid_on_bit : bad? (decode (.event (evw 0x08 1 2 1))) = some .reservedPortionId := by decide
theorem test_decode_rejects_header_bits : bad? (decode (.event (evw 0x01 1 2 1))) = some .reservedEventHeader := by decide
theorem test_decode_rejects_wide_bit : bad? (decode (.event (evw 0x00 1 2 2))) = some .valueTooWide := by decide
theorem test_decode_rejects_wide_serial : bad? (decode (.event (evw 0x48 1 2 0x10000000))) = some .valueTooWide := by decide

theorem test_key_of_sync : dispatchKey .waitSync .high (tok 0x20 0x1F4) = 0b001001 := by decide
theorem test_key_of_end : dispatchKey .waitEnd .low (tok 0x20 0x1F4) = 0b011000 := by decide

/-! ## Table words (log 10) -/

theorem test_table_word_cfg : decodeTableWord 8 0b000100 = some (.cfg .activeHigh 0) := by decide
theorem test_table_word_end : decodeTableWord 8 0b011001 = some (.edgeEnd .high 0) := by decide
theorem test_table_word_event : decodeTableWord 8 0x48 = some (.evPortionSerial 0 0 0) := by decide
theorem test_table_word_verdict : decodeTableWord 2 0b01 = some (.header 0) := by decide
theorem test_fetch_word_runs_sync :
    next? (step (State.reset.withFetchWord 8 0b001001)) =
      next? (exec (.edgeSync .high 0) (State.reset.withFetchWord 8 0b001001)) := by decide
theorem test_fetch_word_reserved_ctl : fault? (step (State.reset.withFetchWord 8 0b101000)) = some .reservedCtl := by decide

/-! ## Dispatch operations (V-I1 to V-I14) -/

theorem test_I1_cfg : next? (exec (.cfg .activeLow 1000000) State.reset) =
    some { State.reset with cfg_rate := 1000000, cfg_pol := .activeLow } := by decide
theorem test_I2_last_cfg_wins :
    (next? (exec (.cfg .activeHigh 2000000) { State.reset with cfg_rate := 1000000, cfg_pol := .activeLow })).map
      (fun t => (t.cfg_rate, t.cfg_pol)) = some (2000000, .activeHigh) := by decide
theorem test_I3_F2_start_without_rate :
    (next? (exec .start { State.reset with cfg_pol := .activeLow })).map State.status = some 0x41 := by decide
theorem test_I4_edgeDrop : next? (exec (.edgeDrop .high 5) State.reset) = some State.reset := by decide
theorem test_I5_start : (next? (exec .start (session .idle startToken))).map (fun t => (t.ctl, t.status, t.tokens)) =
    some (.waitSync, 0x10, []) := by decide
theorem test_I6_edgeSkip : next? (step (session .waitSync (tok 0x00 40))) =
    some { State.reset with cfg_rate := 1000000, ctl := .waitSync } := by decide
theorem test_I7_edgeSync :
    (next? (step (session .waitSync (tok 0x20 500)))).map
      (fun t => (t.ctl, t.p_start, t.bit_position, t.byte_position, t.portion_position)) =
      some (.waitMid, 500, 500, 500, 500) := by decide
theorem test_I8_active_low_sync :
    (next? (step { session .waitSync (tok 0x00 700) with cfg_pol := .activeLow })).map (fun t => (t.ctl, t.p_start)) =
      some (.waitMid, 700) := by decide
theorem test_I9_edgeMid_reads_no_level :
    (next? (step { session .waitMid (tok 0x20 800) with p_start := 500 })).map (fun t => (t.ctl, t.p_start, t.p_mid)) =
      some (.waitEnd, 500, 800) := by decide
theorem test_I10_edgeEnd :
    (next? (step { session .waitEnd (tok 0x20 1600) with p_start := 500, p_mid := 800, bit_position := 500 })).map
      (fun t => (t.ctl, t.p_start, t.phase, t.bits_consumed, t.trace)) =
      some (.waitMid, 1600, .reading, 1, [.bit 500 1600 1]) := by decide
theorem test_I11_cfgIgnored : next? (step (session .waitMid (tok 0xA0 5))) =
    some { State.reset with cfg_rate := 1000000, ctl := .waitMid } := by decide
theorem test_I12_startIgnored : next? (step (session .waitEnd (tok 0x40 0))) =
    some { State.reset with cfg_rate := 1000000, ctl := .waitEnd } := by decide
theorem test_I13_hold : next? (step (session .halt (tok 0x80 5))) = some (session .halt (tok 0x80 5)) := by decide
theorem test_I14_rsv_hardware : next? (step (session .waitMid (tok 0xC0 0))) =
    some { State.reset with cfg_rate := 1000000, ctl := .waitMid } := by decide
theorem test_I14_rsv_strict : refusal? (stepStrict (session .waitMid (tok 0xC0 0))) = some .reservedKind := by decide
theorem test_strict_header_bits : refusal? (stepStrict (session .waitMid (tok 0x01 0))) = some .reservedHeaderBits := by decide
theorem test_reservedCtl_faults : fault? (step (session .reserved6 (tok 0x00 0))) = some .reservedCtl := by decide

/-! ## Period operations (V-A4 to V-A17) -/

theorem test_A4_byte_completes :
    (next? (exec (.header 9300) { frame 7 8200 8500 9300 with byte_acc := 0xAA, byte_position := 500 })).map
      (fun t => (t.trace, t.bytes_consumed, t.enc_word, t.byte_acc, t.byte_position)) =
      some ([.bit 8200 9300 1, .byte 500 9300 0xD5, .raw 500 9300 0xD5], 1, 0xD5, 0, 9300) := by decide
theorem test_A5_enc_portion :
    (next? (exec (.header 1100)
        { frame 31 0 700 1100 with byte_acc := 0x08, enc_word := 0x00030201 })).map
      (fun t => (t.trace.drop 3, t.enc_word, t.portion_position)) =
      some ([.enc 0 1100 0x04030201], 0, 1100) := by decide
theorem test_A10_back_dated_end :
    (next? (step (frame 65 78300 78600 79250))).map (fun t => (t.trace, t.phase, t.bit_position, t.p_start)) =
      some ([.bit 78300 79400 1], .finishing, 78300, 79250) := by decide
theorem test_A17_end_wraps :
    (next? (exec (.frameEnd 0) { frame 65 0 300 0 with bit_position := 18446744073709551116 })).map State.trace =
      some [.bit 18446744073709551116 600 1] := by decide
theorem test_A12_finishExit_then_header :
    (next? (step { frame 66 98300 98700 99400 with phase := .finishing, bit_position := 78300 })).map
      (fun t => (t.trace, t.bits_consumed, t.phase)) = some ([.bit 98300 99400 1], 1, .reading) := by decide
theorem test_A13_finishExit_operation :
    (next? (exec .finishExit { frame 66 98300 98700 99100 with phase := .finishing })).map
      (fun t => (t.phase, t.bits_consumed, t.bit_position)) = some (.seek, 0, 98300) := by decide
theorem test_A14_reject :
    (next? (step (frame 10 11100 11200 11400))).map
      (fun t => (t.trace, t.phase, t.bits_consumed, t.byte_position)) = some ([], .seek, 0, 11400) := by decide
theorem test_A15_overflow :
    (next? (step (frame 65535 0 300 1100))).map (fun t => (t.status, t.trace, t.bits_consumed, t.p_start)) =
      some (0x46, [], 65535, 0) := by decide
theorem test_A16_reject_at_full_counter :
    (next? (step (frame 65535 0 300 300))).map (fun t => (t.ctl, t.err, t.bits_consumed)) = some (.waitMid, .none, 0) := by decide
theorem test_verdictReserved_faults : fault? (exec (.verdictReserved 5) State.reset) = some .reservedVerdict := by decide

/-- V-A6 to V-A9 and V-A11: what a commit emits and keeps at bits 40, 60, 64, 65, and at a FRAME_END at bit 72. -/
theorem test_A6_A7_A8_A9_A11 :
    (next? (step (frame 39 0 300 1100))).map (fun t => (t.trace.length, t.bytes_consumed, t.enc_word)) = some (3, 5, 0) ∧
    (next? (step (frame 59 0 300 1100))).map (fun t => (t.trace.drop 1, t.serial_acc)) =
      some ([.serial 0 1100 0x8000000], 0x8000000) ∧
    (next? (step (frame 63 0 300 1100))).map State.trace =
      some [.bit 0 1100 1, .byte 0 1100 0x80, .raw 0 1100 0x80, .button 0 1100 0x8] ∧
    (next? (step (frame 64 77200 77500 78300))).map State.trace = some [.bit 77200 78300 1] ∧
    (next? (step (frame 71 0 300 20000))).map (fun t => (t.trace, t.bits_consumed)) = some ([.bit 0 1100 1], 72) := by decide

/-- E1: byte assembly is LSB-first. -/
theorem test_E1_lsb_first :
    ([1, 0, 0, 0, 0, 0, 0, 0] : List (BitVec 1)).foldl shiftInBit 0 = 0x01 ∧
      ([0, 0, 0, 0, 0, 0, 0, 1] : List (BitVec 1)).foldl shiftInBit 0 = 0x80 := by decide

/-! ## Event rows -/

theorem test_evBit : (next? (exec (.evBit 500 1600 1) State.reset)).map State.trace = some [.bit 500 1600 1] := by decide
theorem test_evByte : (next? (exec (.evByte 1 2 3) State.reset)).map State.trace = some [.byte 1 2 3] := by decide
theorem test_evRaw : (next? (exec (.evRaw 1 2 3) State.reset)).map State.trace = some [.raw 1 2 3] := by decide
theorem test_evPortionEnc : (next? (exec (.evPortionEnc 1 2 3) State.reset)).map State.trace = some [.enc 1 2 3] := by decide
theorem test_evPortionSerial :
    (next? (exec (.evPortionSerial 1 2 3) State.reset)).map State.trace = some [.serial 1 2 3] := by decide
theorem test_evPortionButton :
    (next? (exec (.evPortionButton 1 2 3) State.reset)).map State.trace = some [.button 1 2 3] := by decide
theorem test_evMeta_faults : fault? (exec (.evMeta 1 2 3) State.reset) = some .metaEmitted := by decide
theorem test_closed_sink_holds_next_token :
    next? (step { session .waitMid (tok 0x00 5) with untaken := 1 }) = some { session .waitMid (tok 0x00 5) with untaken := 1 } := by
  decide

/-! ## The classifier (V-C1 to V-C33), under both arithmetics -/

/-- A row of the vectors: rate, period, count, phase, verdict, bit (0 where the verdict is REJECT). -/
structure Row where
  rate : Rate
  ps : Sample
  pm : Sample
  pe : Sample
  n : BitVec 16
  ph : Phase
  verdict : Verdict
  bit : BitVec 1

/-- A row's verdict and bit, under an arithmetic. -/
def Row.holds (ar : ThresholdArith) (r : Row) : Bool :=
  decide (classifyWith ar r.ps.toNat r.pm.toNat r.pe.toNat r.rate.toNat r.n.toNat r.ph = r.verdict) &&
    (decide (r.verdict = .reject) || decide (bitValueWith ar r.ps.toNat r.pm.toNat r.rate.toNat = r.bit))

/-- V-C1 to V-C13. -/
def rowsA : List Row :=
  [⟨1000000, 0, 300, 1100, 0, .seek, .header, 1⟩, ⟨1000000, 0, 700, 1100, 10, .reading, .header, 0⟩,
   ⟨1000000, 0, 600, 1000, 0, .seek, .header, 0⟩, ⟨1000000, 0, 599, 1200, 0, .seek, .header, 1⟩,
   ⟨1000000, 0, 300, 999, 0, .seek, .reject, 0⟩, ⟨1000000, 0, 300, 1201, 0, .seek, .reject, 0⟩,
   ⟨1000000, 0, 300, 20000, 65, .reading, .frameEnd, 1⟩, ⟨1000000, 0, 899, 20000, 65, .reading, .frameEnd, 0⟩,
   ⟨1000000, 0, 900, 20000, 65, .reading, .reject, 0⟩, ⟨1000000, 0, 300, 20000, 64, .reading, .reject, 0⟩,
   ⟨1000000, 0, 300, 20000, 65, .seek, .reject, 0⟩, ⟨1000000, 0, 300, 1100, 65, .reading, .header, 1⟩,
   ⟨1000000, 0, 300, 500, 65, .reading, .frameEnd, 1⟩]

/-- V-C14 to V-C23. -/
def rowsB : List Row :=
  [⟨1000000, 100, 100, 1200, 0, .seek, .reject, 0⟩, ⟨1000000, 100, 1200, 1200, 0, .seek, .reject, 0⟩,
   ⟨1000000, 1200, 300, 100, 0, .seek, .reject, 0⟩, ⟨1000000, 0, 0, 0, 70, .reading, .reject, 0⟩,
   ⟨1000000, 5, 1, 1100, 0, .seek, .reject, 0⟩, ⟨250000, 0, 150, 250, 0, .seek, .header, 0⟩,
   ⟨250000, 0, 149, 300, 0, .seek, .header, 1⟩, ⟨250000, 0, 150, 249, 0, .seek, .reject, 0⟩,
   ⟨250000, 0, 224, 5000, 65, .reading, .frameEnd, 0⟩, ⟨250000, 0, 225, 5000, 65, .reading, .reject, 0⟩]

/-- V-C24 to V-C32. -/
def rowsC : List Row :=
  [⟨1234567, 0, 741, 1235, 0, .seek, .header, 0⟩, ⟨1234567, 0, 740, 1481, 0, .seek, .header, 1⟩,
   ⟨1234567, 0, 740, 1234, 0, .seek, .reject, 0⟩, ⟨1234567, 0, 740, 1482, 0, .seek, .reject, 0⟩,
   ⟨1234567, 0, 1111, 9999, 70, .reading, .frameEnd, 0⟩, ⟨1234567, 0, 1112, 9999, 70, .reading, .reject, 0⟩,
   ⟨12000000, 0, 7200, 12000, 0, .seek, .header, 0⟩, ⟨12000000, 0, 7199, 14400, 0, .seek, .header, 1⟩,
   ⟨1000, 0, 1, 2, 0, .seek, .reject, 0⟩]

theorem test_classifier_exact : (rowsA ++ rowsB ++ rowsC).all (Row.holds .exact) = true := by decide +kernel
theorem test_classifier_binary64 : (rowsA ++ rowsB ++ rowsC).all (Row.holds .binary64) = true := by decide +kernel
/-- IEEE 754's own values, hand-calculated: ties to even at 2^53, the largest finite value, infinity, and the smallest subnormal. -/
theorem test_binary64_rounding :
    Binary64.ofNat (2 ^ 53 + 1) = .finite (2 ^ 53 * 2 ^ 1074) ∧ Binary64.ofNat (2 ^ 53 + 3) = .finite ((2 ^ 53 + 4) * 2 ^ 1074) ∧
      Binary64.ofNat (2 ^ 1024 - 2 ^ 970 - 1) = .finite ((2 ^ 1024 - 2 ^ 971) * 2 ^ 1074) ∧
      Binary64.ofNat (2 ^ 1024 - 2 ^ 970) = .inf ∧
      Binary64.nearest 1 (2 ^ 1075) = .finite 0 ∧ Binary64.nearest 3 (2 ^ 1075) = .finite 2 := by decide +kernel
/-- At a rate of 2^1030 the rate is infinite: an in-range length gives time 0, an infinite one a NaN, and no comparison with it holds. -/
theorem test_binary64_infinite_rate :
    classifyWith .binary64 0 1 (2 ^ 1030 / 900) (2 ^ 1030) 0 .seek = .reject ∧
      classifyWith .exact 0 1 (2 ^ 1030 / 900) (2 ^ 1030) 0 .seek = .header ∧
      binaryTime (2 ^ 1030) (2 ^ 1030) = .nan ∧ bitValueWith .binary64 0 (2 ^ 1030) (2 ^ 1030) = 1 := by decide +kernel
theorem test_C33_wrapped_index : Row.holds .exact
    ⟨1000000, 18446744073709551516, 18446744073709551566, 1000, 0, .seek, .reject, 0⟩ = true := by decide

/-! ## Status port, texts and notations (V-E13 to V-E21, R103, R104) -/

theorem test_E13_E14_E15_status :
    State.reset.status = 0x00 ∧ (session .waitSync 0).status = 0x10 ∧ (session .waitMid 0).status = 0x20 := by decide
theorem test_E16_E17_status :
    ({ session .waitMid 0 with phase := .reading } : State).status = 0x24 ∧
      ({ session .waitMid 0 with phase := .finishing } : State).status = 0x28 := by decide
theorem test_E20_digits :
    eventDigits (.byte 500 9300 0x55) = ['5', '5'] ∧
      eventDigits (.serial 1 2 0xA1) = ['0', '0', '0', '0', '0', 'A', '1'] ∧ eventDigits (.button 1 2 0) = ['0'] := by decide
theorem test_E4_E11_words :
    edgeToken .high 70900 = tok 0x20 0x114F4 ∧
      (Event.serial 35700 66500 0x5555555).word = evw 0x48 0x8B74 0x103C4 0x05555555 := by decide
theorem test_stream_period :
    expandStream .low 0 [.sync 100, .period 300 100] = [tok 0x00 100, tok 0x20 200, tok 0x00 400] := by decide
theorem test_stream_bits :
    expandStream .high 500 [.bits 1100 700 300 [1, 0]] =
      [tok 0x00 0x320, tok 0x20 0x640, tok 0x00 0x8FC, tok 0x20 0xA8C] := by decide

/-! ## The parameters (R9): program P6's width, `inf`, and other words -/

/-- The parameters of program P6: BITS_W = 7, the smallest legal width. -/
def p6 : Params := { Config.hardware with BITS_W := .bits 7, BYTES_W := .bits 4 }

/-- A block with no bound on samples or counts. -/
def unbounded : Params := { Config.hardware with SAMPLE_W := .inf, BITS_W := .inf, BYTES_W := .inf, ENDPOINT_WRAP := .exact }

/-- A frame of `n` bits of the parametric block, its period (0, 300, 1100) at 1 MHz ending. -/
def pframe (n : Nat) : ParamState :=
  { ParamState.reset with
    cfg_rate := 1000000, ctl := .waitEnd, phase := .reading, bits_consumed := n, bytes_consumed := n / 8, p_mid := 300,
    last_period_length := 1100, tokens := [⟨.edge, 1, 1100⟩] }

/-- The next state of a step of the parametric block, if there is one. -/
def pnext? : Host.Outcome ParamState Fault Refusal → Option ParamState
  | .next s => some s
  | .fault _ => none
  | .refused _ => none

theorem test_params_legal : p6.legal = true ∧ unbounded.legal = true := by decide
theorem test_params_illegal :
    ({ p6 with BITS_W := .bits 6 } : Params).legal = false ∧ ({ p6 with BYTES_W := .bits 3 } : Params).legal = false ∧
    ({ p6 with SAMPLE_W := .bits 15 } : Params).legal = false ∧ ({ p6 with RATE_W := 0 } : Params).legal = false ∧
      ({ p6 with ENDPOINT_WRAP := .exact } : Params).legal = false ∧
      ({ unbounded with BYTES_W := .bits 13 } : Params).legal = false := by decide
theorem test_P6_overflow_at_seven_bits :
    (pnext? (paramStep p6 (pframe 127))).map (fun t => (t.ctl, t.err, t.bits_consumed, t.p_start, t.trace)) =
      some (.halt, .countOverflow, 127, 0, []) := by decide
theorem test_P6_last_count :
    (pnext? (paramStep p6 (pframe 126))).map (fun t => (t.ctl, t.err, t.bits_consumed)) = some (.waitMid, .none, 127) := by decide
theorem test_params_unbounded_counter :
    (pnext? (paramStep unbounded (pframe 65535))).map (fun t => (t.err, t.bits_consumed, t.bytes_consumed)) =
      some (.none, 65536, 8192) := by decide
theorem test_A17_endpoint_exact_and_mod :
    unbounded.endpoint 18446744073709551116 1100 = 18446744073709552216 ∧
      Config.hardware.endpoint 18446744073709551116 1100 = 600 := by decide
theorem test_params_narrow_sample_ignores_payload_bits :
    ({ p6 with SAMPLE_W := .bits 16 } : Params).sampleOf ⟨.edge, 1, 0x1F00123⟩ = 0x0123 := by decide
theorem test_params_words :
    Config.hardware.tokenWord ⟨.edge, 1, 70900⟩ = some 0x2000000000000114F4 ∧
      ({ p6 with SAMPLE_W := .bits 16, RATE_W := 20 } : Params).tokenWord ⟨.cfg, 1, 0xF4240⟩ = some 0xA0F4240 ∧
      ParamToken.ofWord 20 0xA0F4240 = ⟨.cfg, 1, 0xF4240⟩ ∧
      ({ p6 with SAMPLE_W := .bits 16 } : Params).eventWord ⟨.portion .serial, 0x1234, 0x5678, 9⟩ = some 0x481234567800000009 := by
  decide

/-! ## Witnesses: the hypotheses of each obligation hold together -/

/-- A frame of eight bits 0 in progress, its trace and every register as the rules leave them, and a ninth period ending. -/
def inFrame : State :=
  { frame 8 8800 9100 9900 with trace := [.bit 7700 8800 0, .byte 0 8800 0, .raw 0 8800 0] }

theorem test_witness_DecodeOfEncode : (Instr.reservedCtl 1 (tok 0x40 0)).wf = true ∧ (Instr.rsv 0).wf = true := by decide
theorem test_witness_EncodeOfDecodedEvent : ∃ i, decode (.event (evw 0x48 0x8B74 0x103C4 0x0FFFFFFF)) = .ok i := ⟨_, rfl⟩
theorem test_witness_StepRunsDecodedToken :
    (session .idle startToken).untaken = 0 ∧ (session .idle startToken).tokens = startToken :: [] ∧
      decode (.token (session .idle startToken).ctl (session .idle startToken).cfg_pol.activeLevel startToken) = .ok .start :=
  ⟨rfl, rfl, rfl⟩
theorem test_witness_StepHoldsOrWaits :
    ({ session .idle startToken with untaken := 1 } : State).untaken ≠ 0 ∧ State.reset.tokens = [] ∧
      (∃ t, step { frame 63 0 300 1100 with sinkReady := false } = .next t ∧ t.untaken = 4) ∧
      (∃ t, step (frame 63 0 300 1100) = .next t ∧ t.untaken = 0) ∧
      (∃ t, exec (.header 1100) { frame 7 0 300 1100 with sinkReady := false } = .next t ∧ t.untaken = 3) ∧
      (∃ t, exec (.edgeEnd .high 1100) { frame 8 0 300 1100 with sinkReady := false } = .next t ∧ t.untaken = 1) ∧
      ∃ t, exec (.frameEnd 20000) { frame 65 0 300 20000 with sinkReady := false, untaken := 2 } = .next t ∧ t.untaken = 3 :=
  ⟨by decide, by decide, ⟨_, rfl, by decide⟩, ⟨_, rfl, by decide⟩, ⟨_, rfl, by decide⟩, ⟨_, rfl, by decide⟩, _, rfl, by decide⟩
theorem test_witness_CfgLatchesRateAndPolarity : tokenKind (tok 0x80 5) = .cfg := by decide
theorem test_witness_StartWithRateBeginsSession :
    tokenKind startToken = .start ∧ ({ State.reset with cfg_rate := 1 } : State).cfg_rate ≠ 0 := by decide
theorem test_witness_StartWithoutRateRaisesConfigError : State.reset.cfg_rate = 0 := by decide
theorem test_witness_DroppedAndSkippedEdgesChangeNothing :
    tokenKind (tok 0x00 5) = .edge ∧ tokenLevel (tok 0x00 5) ≠ .high := by decide
theorem test_witness_CfgAndStartIgnoredInSession : tokenKind (tok 0xA0 5) = .cfg ∧ tokenKind (tok 0x60 5) = .start := by decide
theorem test_witness_ReservedKindConsumedWithNoEffect : tokenKind (tok 0xC0 0) = .reserved := by decide
theorem test_witness_StrictStepRefusesReservedTokens :
    (session .idle (tok 0xC0 0)).untaken = 0 ∧ tokenKind (tok 0xC1 0) = .reserved ∧
      (tokenKind (tok 0x01 0) ≠ .reserved ∧ tokenReserved (tok 0x01 0) ≠ 0) ∧
      tokenKind (tok 0x40 0) ≠ .reserved ∧ tokenReserved (tok 0x40 0) = 0 := by decide
theorem test_witness_HaltIsStuckUntilHardwareReset :
    (session .halt startToken).ctl = .halt ∧ State.reset.ctl ≠ .halt ∧ State.reset.tokens = [] := by decide
theorem test_witness_SyncEdgeStartsFirstPeriod : tokenKind (tok 0x20 5) = .edge ∧ tokenLevel (tok 0x20 5) = .high := by decide
theorem test_witness_MidEdgeIsCaptured : tokenKind (tok 0x20 5) = .edge := by decide
theorem test_witness_EndEdgeCommitsItsVerdict :
    tokenKind (tok 0x20 5) = .edge ∧ (frame 65534 0 300 1100).phase ≠ .finishing ∧
      (frame 65534 0 300 1100).bits_consumed.toNat < 65535 ∧
      classify 0 300 300 (frame 65535 0 300 300).cfg_rate 65535 .reading = .reject := by decide
theorem test_witness_CommitAfterFrameEndResetsFirst :
    ({ frame 66 98300 98700 99100 with phase := .finishing } : State).phase = .finishing := by decide
theorem test_witness_FullCounterRaisesOverflow :
    (frame 65535 0 300 1100).phase = .reading ∧ (frame 65535 0 300 1100).bits_consumed.toNat = 65535 ∧
      classify 0 300 1100 (frame 65535 0 300 1100).cfg_rate 65535 .reading ≠ .reject ∧
      (p6.BITS_W = .bits 7 ∧ (pframe 127).phase ≠ .finishing ∧ (pframe 127).bits_consumed = 2 ^ 7 - 1 ∧
        classifyWith p6.THRESHOLD_ARITH 0 300 1100 1000000 127 .reading ≠ .reject) ∧
      unbounded.BITS_W = .inf ∧
      ∃ t, paramStep unbounded { ParamState.reset with ctl := .halt, err := .countOverflow } = .next t ∧ t.err = .countOverflow :=
  ⟨by decide, by decide, by decide, by decide, by decide, _, rfl, rfl⟩
theorem test_witness_ReservedOperationsFault :
    (session .reserved5 startToken).untaken = 0 ∧ (session .reserved7 startToken).tokens = [startToken] := by decide
theorem test_witness_MalformedPeriodIsReject : ¬((5 : Sample).toNat < (5 : Sample).toNat ∧ (5 : Sample).toNat < (6 : Sample).toNat) := by
  decide
theorem test_witness_ReadingTestNeverDecides :
    FrameOk (frame 65 0 300 20000) ∧ (frame 65 0 300 20000).phase ≠ .finishing ∧
      64 < (frame 65 0 300 20000).bits_consumed.toNat ∧ malformed 0 300 20000 = false ∧
      classify 0 300 20000 (frame 65 0 300 20000).cfg_rate 65 .reading ≠ .header ∧
      10000 * (((300 : Sample).toNat : Int) - (0 : Sample).toNat) < 9 * (frame 65 0 300 20000).cfg_rate.toNat :=
  ⟨by constructor <;> decide, by decide, by decide, by decide, by decide, by decide⟩
theorem test_witness_HeaderBitLayerAndFrame : (frame 65534 0 300 1100).bits_consumed.toNat < 65535 := by decide
theorem test_witness_HeaderByteLayer :
    (frame 0 0 300 1100).bits_consumed.toNat < 65535 ∧ (frame 31 0 300 1100).bits_consumed.toNat < 65535 := by decide
theorem test_witness_HeaderPortionLayer :
    (frame 32 0 300 1100).bits_consumed.toNat < 65535 ∧ (frame 60 0 300 1100).bits_consumed.toNat < 65535 := by decide
theorem test_witness_HeaderEventsInFull :
    (frame 59 0 300 1100).bits_consumed.toNat < 65535 ∧ (frame 63 0 300 1100).bits_consumed.toNat < 65535 := by decide
theorem test_witness_FrameEndEmitsOnlyItsBit : (frame 65 0 300 20000).bits_consumed.toNat < 65535 := by decide
theorem test_witness_AcceptedPeriodWithFullCounter : (frame 65535 0 300 1100).bits_consumed.toNat = 65535 := by decide
theorem test_witness_OutputOrderOfAStep : ∃ t, step (frame 63 0 300 1100) = .next t ∧ t.trace ≠ [] := ⟨_, rfl, by decide⟩
theorem test_witness_ControlTransitions : ∃ t, step (session .idle startToken) = .next t ∧ t.ctl = .waitSync := ⟨_, rfl, rfl⟩
theorem test_witness_ConfigurationFrozenOutsideIdle :
    ∃ t, step (session .waitMid (tok 0xA0 5)) = .next t ∧ (session .waitMid (tok 0xA0 5)).ctl ≠ .idle := ⟨_, rfl, by decide⟩
theorem test_witness_ErrWrittenOnlyByFaults :
    (∃ t, step { State.reset with tokens := [startToken] } = .next t ∧ t.err ≠ State.reset.err) ∧
      ∃ t, step (frame 65535 0 300 1100) = .next t ∧ t.err ≠ (frame 65535 0 300 1100).err :=
  ⟨⟨_, rfl, by decide⟩, ⟨_, rfl, by decide⟩⟩
theorem test_witness_PhaseMachine :
    (∃ t, step (frame 65 0 300 20000) = .next t ∧ t.phase = .finishing) ∧
    (∃ t, step (session .waitEnd (tok 0x20 0)) = .next t ∧ t.phase = .seek) ∧
      ∃ t, step (frame 64 0 300 1100) = .next t ∧ t.phase = .reading :=
  ⟨⟨_, rfl, by decide⟩, ⟨_, rfl, by decide⟩, ⟨_, rfl, by decide⟩⟩
theorem test_witness_BitCounterNeverWraps :
    (∃ t, step (frame 65534 0 300 1100) = .next t ∧ t.bits_consumed = 65535) ∧
    (∃ t, step (frame 65535 0 300 1100) = .next t ∧ t.bits_consumed = 65535) ∧
    (∃ t, step (frame 65535 0 300 300) = .next t ∧ t.bits_consumed = 0 ∧ t.phase = .seek) ∧
      ∃ t, step { frame 65535 0 300 1100 with phase := .finishing } = .next t ∧ t.bits_consumed = 1 ∧ t.phase = .reading :=
  ⟨⟨_, rfl, by decide⟩, ⟨_, rfl, by decide⟩, ⟨_, rfl, by decide⟩, ⟨_, rfl, by decide⟩⟩
theorem test_witness_FrameResetTriggers :
    (∃ t, step (frame 10 0 300 300) = .next t ∧ t.bits_consumed.toNat < (frame 10 0 300 300).bits_consumed.toNat) ∧
    (∃ t, step { frame 66 0 300 1100 with phase := .finishing } = .next t ∧ t.bits_consumed.toNat < 66) ∧
      ∃ t, step { session .waitSync (tok 0x20 5) with bits_consumed := 1 } = .next t ∧ t.bits_consumed.toNat < 1 :=
  ⟨⟨_, rfl, by decide⟩, ⟨_, rfl, by decide⟩, ⟨_, rfl, by decide⟩⟩
theorem test_witness_RegistersWrittenOnlyWhereTheTableSays :
    ∃ t, step (session .waitMid (tok 0x00 5)) = .next t ∧ (session .waitMid (tok 0x00 5)).ctl = .waitMid := ⟨_, rfl, rfl⟩

theorem test_witness_HardwareResetValues : ∃ t, t = inFrame.hostAct .pulseReset ∧ inFrame.ctl ≠ .idle := ⟨_, rfl, by decide⟩

theorem test_witness_StepKeepsControlOk : ControlOk inFrame ∧ ∃ t, step inFrame = .next t :=
  ⟨by constructor <;> decide, _, rfl⟩
theorem test_witness_StepKeepsFrameOk : FrameOk inFrame ∧ ∃ t, step inFrame = .next t :=
  ⟨by constructor <;> decide, _, rfl⟩
theorem test_witness_StepKeepsFaultOk : ControlOk inFrame ∧ FrameOk inFrame ∧ FaultOk inFrame ∧ ∃ t, step inFrame = .next t :=
  ⟨by constructor <;> decide, by constructor <;> decide, by constructor <;> decide, _, rfl⟩
theorem test_witness_StepKeepsMarkersOk : MarkersOk inFrame ∧ ∃ t, step inFrame = .next t :=
  ⟨by constructor <;> decide, _, rfl⟩
theorem test_witness_StepKeepsLengthOk : ControlOk inFrame ∧ LengthOk inFrame ∧ ∃ t, step inFrame = .next t :=
  ⟨by constructor <;> decide, by constructor <;> decide, _, rfl⟩
theorem test_witness_StepKeepsTraceInvariants :
    FrameOk inFrame ∧ RawMirrorsBytes inFrame.trace ∧ SpansMeet inFrame ∧ ∃ t, step inFrame = .next t :=
  ⟨by constructor <;> decide, by unfold RawMirrorsBytes; decide, by constructor <;> decide, _, rfl⟩
theorem test_witness_HostActsKeepInvariants :
    HostAct.takeEvent ≠ .pulseReset ∧ HostAct.closeSink ≠ .pulseReset ∧ ControlOk inFrame ∧ FrameOk inFrame ∧ FaultOk inFrame ∧ MarkersOk inFrame ∧ LengthOk inFrame ∧
      RawMirrorsBytes inFrame.trace ∧ SpansMeet inFrame :=
  ⟨by decide, by decide, by constructor <;> decide, by constructor <;> decide, by constructor <;> decide, by constructor <;> decide,
    by constructor <;> decide, by unfold RawMirrorsBytes; decide, by constructor <;> decide⟩
theorem test_witness_ReachableStatesAreSafe : Reachable (State.reset.hostAct (.offer startToken)) := .host _ .reset
theorem test_witness_IncreasingEdgesAreNeverMalformed :
    EdgesIncrease inFrame ∧ ∃ t, step inFrame = .next t ∧ inFrame.ctl = .waitEnd ∧ t.ctl = .waitMid := by
  refine ⟨⟨by decide, ?_, by decide⟩, _, rfl, rfl, by decide⟩
  intro l e hl he
  have h1 : l = 9100 := by simpa [State.lastEdge, inFrame, frame, session] using hl.symm
  have h2 : edgeSamples inFrame.tokens = [9900] := by decide
  rw [h2, List.mem_singleton] at he
  subst h1; subst he; decide
/-- The registers of a frame of `n` bits 1, before the bit that completes a byte and the encrypted word (31), the serial (59) and the
button (63). -/
theorem test_witness_HeaderExtendsTheFrame :
    FrameBits (frame 8 8800 9100 9900) (List.replicate 8 0) ∧
    FrameBits { frame 31 0 300 1100 with byte_acc := 0xFE, enc_word := 0xFFFFFF } (List.replicate 31 1) ∧
    FrameBits { frame 59 0 300 1100 with byte_acc := 0xE0, serial_acc := 0x7FFFFFF } (List.replicate 59 1) ∧
    FrameBits { frame 63 0 300 1100 with byte_acc := 0xFE, serial_acc := 0xFFFFFFF, button_acc := 0x7 } (List.replicate 63 1) ∧
      (List.replicate 63 (1 : BitVec 1)).length < 65535 :=
  ⟨by constructor <;> decide, by constructor <;> decide, by constructor <;> decide, by constructor <;> decide, by decide⟩
theorem test_witness_FrameResetBeginsEmptyFrame :
    (∃ t, exec .finishExit inFrame = .next t) ∧ (∃ t, exec (.reject 9900) inFrame = .next t) ∧
      (∃ t, exec (.edgeSync .high 9900) inFrame = .next t) ∧
      inFrame.cfg_rate ≠ 0 ∧ ∃ t, exec .start inFrame = .next t ∧ t.ctl = .waitSync :=
  ⟨⟨_, rfl⟩, ⟨_, rfl⟩, ⟨_, rfl⟩, by decide, _, rfl, rfl⟩

/-- A frame of 65 HEADER bits, its trace holding the events that R190 counts. -/
def tallied : State :=
  { frame 65 78300 78600 79250 with
    trace := List.replicate 65 (.bit 0 0 0) ++ List.replicate 8 (.byte 0 0 0) ++ List.replicate 8 (.raw 0 0 0) ++
      [.enc 0 0 0, .serial 0 0 0, .button 0 0 0] }

theorem test_witness_CompleteFrameTally : FrameTally tallied 0 ∧ tallied.bits_consumed.toNat = 65 := by
  refine ⟨⟨by decide, ?_⟩, by decide⟩
  intro k
  rcases k with _ | _ | _ | p
  · decide
  · decide
  · decide
  · cases p <;> decide

theorem test_witness_HeaderKeepsTally : FrameTally tallied 0 ∧ tallied.bits_consumed.toNat < 65535 :=
  ⟨test_witness_CompleteFrameTally.1, by decide⟩

end Sys2Proof.Machine.Tests
end

section
/-! The scope statements (00_scope.md): what a step and an event row run, and this hardware as the parametric block of R9. -/

namespace Sys2Proof.Machine

/-! ## Steps and event rows (R13, R15, R87) -/

/-- With every event taken, the operation a step runs is the one its offered token selects (R15, R87). -/
theorem step_of_offered {s : State} {w : TokenWord} {rest : List TokenWord} (taken : s.untaken = 0)
    (offered : s.tokens = w :: rest) : step s = exec (decodeToken s.ctl s.activeLevel w) s := by
  simp [step, State.fetch, State.backpressured, taken, offered]

/-- Settles O6: a code of a token decodes to the operation that the step runs. -/
theorem stepRunsDecodedToken : Obligations.StepRunsDecodedToken := by
  intro s w rest i taken offered decoded
  have selected : decodeToken s.ctl s.cfg_pol.activeLevel w = i := Except.ok.inj decoded
  rw [step_of_offered taken offered, State.activeLevel, selected]

/-- Settles O35: every event row is one `emit` of its event, which writes only the trace and the count of events to take. -/
theorem eventRowsAppendOneEvent : Obligations.EventRowsAppendOneEvent := by
  intro a b s v1 v4 v8 v28 v32 put
  have emitted (e : Event) : .next (s.emit e) = put e := rfl
  exact ⟨emitted (.bit a b v1), emitted (.byte a b v8), emitted (.raw a b v8), emitted (.enc a b v32),
    emitted (.serial a b v28), emitted (.button a b v4)⟩

/-! ## The words of this hardware as words of the parametric block (R80, R90) -/

theorem toNat_append_eq_mul_add {m n : Nat} (x : BitVec m) (y : BitVec n) :
    (x ++ y).toNat = x.toNat * 2 ^ n + y.toNat := by
  rw [BitVec.toNat_append, ← Nat.shiftLeft_add_eq_or_of_lt y.isLt, Nat.shiftLeft_eq]

/-- The field of `len` bits from bit `k` on, read off the word's number. -/
theorem ofNat_toNat_div_eq_extractLsb' {n : Nat} (w : BitVec n) (k len : Nat) :
    BitVec.ofNat len (w.toNat / 2 ^ k) = w.extractLsb' k len := by
  rw [← Nat.shiftRight_eq_div_pow]; rfl

/-- A 72-bit token word is a word of the parametric block at PAYLOAD_W = 64 (R80). -/
theorem ofWord_toNat (w : TokenWord) : ParamToken.ofWord 64 w.toNat = tokenRecord w := by
  have payload : w.toNat % 2 ^ 64 = (tokenPayload w).toNat := by
    rw [tokenPayload, BitVec.extractLsb'_toNat, Nat.shiftRight_zero]
  rw [ParamToken.ofWord, ofNat_toNat_div_eq_extractLsb', ofNat_toNat_div_eq_extractLsb', payload]
  rfl

/-- The number of an event word: its header byte, its span and its value, each above the next (R90). -/
theorem mkEventWord_toNat (ch : Channel) (pid : BitVec 2) (a b : Sample) (v : BitVec 32) :
    (mkEventWord ch pid a b v).toNat =
      (((ch.code.toNat * 32 + pid.toNat * 8) * 2 ^ 64 + a.toNat) * 2 ^ 64 + b.toNat) * 2 ^ 32 + v.toNat := by
  simp only [mkEventWord, toNat_append_eq_mul_add, BitVec.toNat_ofNat]
  omega

/-- The parametric block's word at SAMPLE_W = 64, for the kind whose header byte a channel and a portion id make (R90 to R92). -/
theorem eventWord_eq_mkEventWord {k : EventKind} {ch : Channel} {pid : BitVec 2}
    (header : eventHeader k = ch.code.toNat * 32 + pid.toNat * 8) (a b : Sample) {n : Nat} (v : BitVec n) (fits : n ≤ 32) :
    Config.hardware.eventWord ⟨k, a.toNat, b.toNat, v.toNat⟩ = some (mkEventWord ch pid a b (v.setWidth 32)).toNat := by
  rw [mkEventWord_toNat, BitVec.toNat_setWidth_of_le fits, ← header]
  rfl

/-- An event's 168-bit word is the parametric block's at SAMPLE_W = 64 (R90 to R93). -/
theorem eventWord_eventRecord (e : Event) : Config.hardware.eventWord (eventRecord e) = some e.word.toNat := by
  cases e with
  | bit a b v => exact eventWord_eq_mkEventWord rfl a b v (by decide)
  | byte a b v => exact eventWord_eq_mkEventWord rfl a b v (by decide)
  | raw a b v => exact eventWord_eq_mkEventWord rfl a b v (by decide)
  | enc a b v =>
    rw [Event.word, ← BitVec.setWidth_eq v]
    exact eventWord_eq_mkEventWord rfl a b v (by decide)
  | serial a b v => exact eventWord_eq_mkEventWord rfl a b v (by decide)
  | button a b v => exact eventWord_eq_mkEventWord rfl a b v (by decide)

/-! ## The step of this hardware as the step of the parametric block (R15, R88) -/

/-- A sample of this hardware passes SAMPLE_W whole (R82). -/
theorem sampleOf_tokenRecord (w : TokenWord) : Config.hardware.sampleOf (tokenRecord w) = (tokenPayload w).toNat :=
  Nat.mod_eq_of_lt (tokenPayload w).isLt

/-- A rate of this hardware passes RATE_W whole (R83). -/
theorem rateOf_tokenRecord (w : TokenWord) : Config.hardware.rateOf (tokenRecord w) = (tokenPayload w).toNat :=
  Nat.mod_eq_of_lt (tokenPayload w).isLt

/-- START in the parametric block: the rate is 0 there exactly where it is 0 here (R122). -/
theorem paramToken_start {s : State} {w : TokenWord} (idle : s.ctl = .idle) (start : tokenKind w = .start) :
    paramToken Config.hardware (tokenRecord w) s.toParam = outcomeToParam (execStart s) := by
  have ctl : s.toParam.ctl = .idle := idle
  have kind : (tokenRecord w).kind = .start := start
  have rate : s.toParam.cfg_rate = 0 ↔ s.cfg_rate = 0 := BitVec.toNat_inj (y := 0#64)
  simp only [paramToken, ctl, kind, rate, execStart, ← toParam_consume]
  split <;> rfl

/-- The operation an offered token selects is the one the parametric block gives the token's record, by the control state and the
token's kind, the rows of R88. -/
theorem paramToken_tokenRecord (s : State) (w : TokenWord) :
    paramToken Config.hardware (tokenRecord w) s.toParam = outcomeToParam (exec (decodeToken s.ctl s.activeLevel w) s) := by
  have ctl : s.toParam.ctl = s.ctl := rfl
  have kind : (tokenRecord w).kind = tokenKind w := rfl
  have level : Level.ofBit (tokenRecord w).l = tokenLevel w := rfl
  have active : s.toParam.cfg_pol.activeLevel = s.activeLevel := rfl
  cases hc : s.ctl with
  | idle =>
    cases hk : tokenKind w with
    | start => rw [paramToken_start hc hk, decodeToken, hk, exec]
    | cfg => simp only [paramToken, decodeToken, ctl, kind, hc, hk, rateOf_tokenRecord, ← toParam_consume]; rfl
    | edge | reserved => simp only [paramToken, decodeToken, ctl, kind, hc, hk, ← toParam_consume]; rfl
  | waitSync =>
    cases hk : tokenKind w with
    | edge =>
      simp only [paramToken, decodeToken, ctl, kind, level, active, hc, hk, sampleOf_tokenRecord, ← toParam_consume]
      split <;> rfl
    | start | cfg | reserved => simp only [paramToken, decodeToken, ctl, kind, hc, hk, ← toParam_consume]; rfl
  | waitMid =>
    cases hk : tokenKind w with
    | edge => simp only [paramToken, decodeToken, ctl, kind, hc, hk, sampleOf_tokenRecord, ← toParam_consume]; rfl
    | start | cfg | reserved => simp only [paramToken, decodeToken, ctl, kind, hc, hk, ← toParam_consume]; rfl
  | waitEnd =>
    cases hk : tokenKind w with
    | edge =>
      simp only [paramToken, decodeToken, ctl, kind, hc, hk, sampleOf_tokenRecord, ← toParam_consume, ← toParam_edgeEnd]
      rfl
    | start | cfg | reserved => simp only [paramToken, decodeToken, ctl, kind, hc, hk, ← toParam_consume]; rfl
  | halt => rw [paramToken, ctl, hc]; rfl
  | reserved5 | reserved6 | reserved7 => rw [paramToken, ctl, hc]; rfl

/-- The parametric block waits where this hardware does (R77, R133). -/
theorem paramStep_of_waiting {s : State} (waits : s.untaken ≠ 0 ∨ s.tokens = []) :
    paramStep Config.hardware s.toParam = .next s.toParam := by
  by_cases u : s.toParam.untaken = 0
  · have empty : s.toParam.tokens = [] := congrArg (List.map tokenRecord) (waits.resolve_left (not_not.2 u))
    rw [paramStep, if_neg (not_not.2 u), empty]
  · exact if_pos u

/-- With every event taken, the parametric block takes the record of the token this hardware takes (R15). -/
theorem paramStep_of_offered {s : State} {w : TokenWord} {rest : List TokenWord} (taken : s.untaken = 0)
    (offered : s.tokens = w :: rest) :
    paramStep Config.hardware s.toParam = paramToken Config.hardware (tokenRecord w) s.toParam := by
  have records : s.toParam.tokens = tokenRecord w :: rest.map tokenRecord := congrArg (List.map tokenRecord) offered
  have allTaken : s.toParam.untaken = 0 := taken
  rw [paramStep, if_neg (not_not.2 allTaken), records]

/-- A step of this hardware is the parametric block's, whether it waits or runs the offered token (R15, R77, R133). -/
theorem paramStep_toParam (s : State) : paramStep Config.hardware s.toParam = outcomeToParam (step s) := by
  obtain ⟨waiting, waits⟩ | ⟨w, rest, taken, offered, -⟩ := fetch_cases s
  · rw [paramStep_of_waiting waits, step, waiting]; rfl
  · rw [paramStep_of_offered taken offered, paramToken_tokenRecord, step_of_offered taken offered]

/-- Settles O60, part by part: the legal values, the two words, the reset and the step. -/
theorem hardwareIsTheParametricBlock : Obligations.HardwareIsTheParametricBlock :=
  ⟨rfl, ofWord_toNat, eventWord_eventRecord, rfl, paramStep_toParam⟩

end Sys2Proof.Machine
end

section
/-! What a step does to the state, case by case with a name for each, and what of it the invariants read. -/

namespace Sys2Proof.Machine

/-! ## The effect of a step (R24, R88) -/

/-- Everything a step that answers next can do to the state `s`; a period that ends is classified in `commitEntry s.consume`
(R171, R173). -/
inductive StepEffect (s : State) : State → Prop
  /-- The block waits, or holds the token (R77, R133, R223). -/
  | stays : StepEffect s s
  /-- The token is consumed with no effect (R123, R124, R132, R134). -/
  | consumes (live : s.ctl = .idle ∨ s.ctl = .waitSync ∨ s.ctl = .waitMid ∨ s.ctl = .waitEnd) : StepEffect s s.consume
  /-- CFG (R121). -/
  | configures (idle : s.ctl = .idle) (pol : Polarity) (rate : Rate) :
      StepEffect s { s.consume with cfg_rate := rate, cfg_pol := pol }
  /-- START without a rate (R222). -/
  | refusesStart (idle : s.ctl = .idle) (noRate : s.cfg_rate = 0) : StepEffect s (s.consume.raiseFault .configError)
  /-- START with a rate (R252). -/
  | starts (idle : s.ctl = .idle) (rate : s.cfg_rate ≠ 0) : StepEffect s { s.consume.frameReset 0 with ctl := .waitSync }
  /-- The synchronizing edge (R125, R253). -/
  | syncs (sync : s.ctl = .waitSync) (p : Sample) :
      StepEffect s { s.consume.frameReset p with p_start := p, ctl := .waitMid }
  /-- The mid edge (R126). -/
  | capturesMid (mid : s.ctl = .waitMid) (p : Sample) : StepEffect s { s.consume with p_mid := p, ctl := .waitEnd }
  /-- A period ends and is rejected, whatever the entry phase (R173, R174). -/
  | rejects (ended : s.ctl = .waitEnd) (pe : Sample) :
      StepEffect s { s.consume.frameReset pe with p_start := pe, ctl := .waitMid }
  /-- A period ends and is accepted with a full counter (R224). -/
  | overflows (ended : s.ctl = .waitEnd) (inFrame : s.phase ≠ .finishing) (full : s.bits_consumed.toNat = 65535) :
      StepEffect s (s.consume.raiseFault .countOverflow)
  /-- A HEADER period ends (R175 to R188). -/
  | header (ended : s.ctl = .waitEnd) (pe : Sample) (accepted : (commitEntry s.consume).verdict pe = .header)
      (room : (commitEntry s.consume).bits_consumed.toNat < 65535) :
      StepEffect s { headerRest (commitEntry s.consume).periodBit pe (countBit (commitEntry s.consume)) with
        p_start := pe, ctl := .waitMid }
  /-- A FRAME_END period ends, in a frame that is being read (R177 to R179). -/
  | frameEnd (ended : s.ctl = .waitEnd) (pe : Sample) (accepted : s.verdict pe = .frameEnd)
      (room : s.bits_consumed.toNat < 65535) :
      StepEffect s { frameEndRest s.periodBit (countBit s.consume) with p_start := pe, ctl := .waitMid }

/-- A step that answers next has one of the effects named in `StepEffect`. After FinishExit a frame has no bits, so only a HEADER
or a REJECT can follow it (R171, R173). -/
theorem effect_of_step {s t : State} (h : step s = .next t) : StepEffect s t := by
  obtain rfl | ⟨live, rfl⟩ | ⟨idle, pol, rate, rfl⟩ | ⟨idle, noRate, rfl⟩ | ⟨idle, rate, rfl⟩ | ⟨sync, p, rfl⟩ |
    ⟨mid, p, rfl⟩ | ⟨ended, pe, e, entry, outcome⟩ := step_full_cases h
  · exact .stays
  · exact .consumes live
  · exact .configures idle pol rate
  · exact .refusesStart idle noRate
  · exact .starts idle rate
  · exact .syncs sync p
  · exact .capturesMid mid p
  have entryState : commitEntry s.consume = e := by
    obtain ⟨fin, rfl⟩ | ⟨inFrame, rfl⟩ := entry
    · exact if_pos fin
    · exact if_neg inFrame
  obtain ⟨-, rfl⟩ | ⟨full, -, rfl⟩ | ⟨room, accepted, rfl⟩ | ⟨room, accepted, rfl⟩ := outcome
  · obtain ⟨-, rfl⟩ | ⟨-, rfl⟩ := entry
    · exact .rejects ended pe
    · exact .rejects ended pe
  · obtain ⟨-, rfl⟩ | ⟨inFrame, rfl⟩ := entry
    · simp at full
    · exact .overflows ended inFrame full
  · subst entryState
    exact .header ended pe accepted room
  · obtain ⟨-, rfl⟩ | ⟨-, rfl⟩ := entry
    · obtain ⟨-, -, many, -⟩ := verdict_frameEnd accepted
      simp at many
    · exact .frameEnd ended pe accepted room

/-- Every control state but the reserved ones answers a next state to whatever is offered (R88, R225). -/
theorem step_answers_next {s : State} (legal : s.ctl ≠ .reserved5 ∧ s.ctl ≠ .reserved6 ∧ s.ctl ≠ .reserved7) :
    ∃ t, step s = .next t := by
  obtain ⟨h5, h6, h7⟩ := legal
  obtain ⟨waiting, -⟩ | ⟨w, rest, taken, offered, -⟩ := fetch_cases s
  · exact ⟨s, by rw [step, waiting]⟩
  rw [step_of_offered taken offered]
  cases hc : s.ctl with
  | idle =>
    cases hk : tokenKind w with
    | start =>
      simp only [decodeToken, hk, exec, execStart]
      split <;> exact ⟨_, rfl⟩
    | edge | cfg | reserved => simp only [decodeToken, hk]; exact ⟨_, rfl⟩
  | waitSync =>
    cases hk : tokenKind w with
    | edge =>
      simp only [decodeToken, hk]
      split <;> exact ⟨_, rfl⟩
    | start | cfg | reserved => simp only [decodeToken, hk]; exact ⟨_, rfl⟩
  | waitMid | waitEnd => cases hk : tokenKind w <;> simp only [decodeToken, hk] <;> exact ⟨_, rfl⟩
  | halt => exact ⟨s, rfl⟩
  | reserved5 => exact absurd hc h5
  | reserved6 => exact absurd hc h6
  | reserved7 => exact absurd hc h7

/-! ## The state a commit classifies in (R171, R173) -/

theorem commitEntry_phase_ne_finishing (s : State) : (commitEntry s).phase ≠ .finishing := by
  obtain ⟨-, e⟩ | ⟨inFrame, e⟩ := commitEntry_cases s <;> rw [e]
  · simp
  · exact inFrame

/-- FinishExit writes no register that is not the decoder's (R172, R173). -/
theorem commitEntry_control (s : State) :
    (commitEntry s).cfg_rate = s.cfg_rate ∧ (commitEntry s).cfg_pol = s.cfg_pol ∧ (commitEntry s).err = s.err ∧
      (commitEntry s).p_start = s.p_start ∧ (commitEntry s).p_mid = s.p_mid ∧ (commitEntry s).trace = s.trace := by
  obtain ⟨-, e⟩ | ⟨-, e⟩ := commitEntry_cases s <;> simp [e]

/-! ## The decoder registers (R29 to R39) -/

/-- `t` holds the eleven decoder registers of `s`. -/
def SameDecoder (s t : State) : Prop :=
  t.phase = s.phase ∧ t.bits_consumed = s.bits_consumed ∧ t.bytes_consumed = s.bytes_consumed ∧
    t.byte_acc = s.byte_acc ∧ t.enc_word = s.enc_word ∧ t.serial_acc = s.serial_acc ∧ t.button_acc = s.button_acc ∧
    t.bit_position = s.bit_position ∧ t.byte_position = s.byte_position ∧
    t.portion_position = s.portion_position ∧ t.last_period_length = s.last_period_length

/-- Beginning a period writes no decoder register (R127, R253). -/
theorem sameDecoder_beginPeriod (s : State) (p : Sample) : SameDecoder s { s with p_start := p, ctl := .waitMid } := by
  simp [SameDecoder]

/-! ## Bits placed in a register (R61 to R63) -/

/-- An or with a value placed at bit `k` stays below the end of that value. -/
theorem or_shiftLeft_toNat_lt {w v : Nat} {x : BitVec w} (y : BitVec v) {k : Nat} (hx : x.toNat < 2 ^ (k + v)) :
    (x ||| (y.setWidth w <<< k)).toNat < 2 ^ (k + v) := by
  rw [BitVec.toNat_or]
  refine Nat.or_lt_two_pow hx ?_
  rw [BitVec.toNat_shiftLeft, BitVec.toNat_setWidth, Nat.shiftLeft_eq, pow_add, mul_comm (2 ^ k)]
  calc y.toNat % 2 ^ w * 2 ^ k % 2 ^ w ≤ y.toNat % 2 ^ w * 2 ^ k := Nat.mod_le _ _
    _ ≤ y.toNat * 2 ^ k := Nat.mul_le_mul_right _ (Nat.mod_le _ _)
    _ < 2 ^ v * 2 ^ k := Nat.mul_lt_mul_of_pos_right y.isLt (Nat.two_pow_pos k)

/-- The byte register as a number after one more bit (R178). -/
theorem shiftInBit_toNat (acc : BitVec 8) (b : BitVec 1) : (shiftInBit acc b).toNat = 2 ^ 7 * b.toNat + acc.toNat / 2 := by
  have hacc : acc.toNat / 2 < 2 ^ 7 := by have := acc.isLt; omega
  have hb : b.toNat < 2 := b.isLt
  have placed : (b.setWidth 8 <<< 7).toNat = 2 ^ 7 * b.toNat := by
    rw [BitVec.toNat_shiftLeft, BitVec.toNat_setWidth, Nat.shiftLeft_eq]; omega
  rw [shiftInBit, BitVec.toNat_or, BitVec.toNat_ushiftRight, Nat.shiftRight_eq_div_pow, pow_one, placed, Nat.or_comm,
    Nat.two_pow_add_eq_or_of_lt hacc]

/-- Shifting a bit in leaves one low bit fewer that is 0 (R45 item 4). -/
theorem shiftInBit_low_zero {acc : BitVec 8} {k : Nat} (b : BitVec 1) (hk : k < 7)
    (low : acc.toNat % 2 ^ (8 - k) = 0) : (shiftInBit acc b).toNat % 2 ^ (7 - k) = 0 := by
  rw [shiftInBit_toNat]
  have top : 2 ^ (7 - k) ∣ 2 ^ 7 * b.toNat := Dvd.dvd.mul_right (pow_dvd_pow 2 (Nat.sub_le 7 k)) _
  have rest : 2 ^ (7 - k) ∣ acc.toNat / 2 := by
    refine Nat.dvd_div_of_mul_dvd ?_
    rw [← pow_succ', show 7 - k + 1 = 8 - k by omega]
    exact Nat.dvd_of_mod_eq_zero low
  exact Nat.mod_eq_zero_of_dvd (Nat.dvd_add top rest)

end Sys2Proof.Machine
end

section
/-! Every step keeps the frame registers (R45 items 1 to 7). -/

namespace Sys2Proof.Machine

theorem FrameOk.of_sameDecoder {s t : State} (ok : FrameOk s) (same : SameDecoder s t) : FrameOk t := by
  obtain ⟨phase, bits, bytes, acc, enc, serial, button, -⟩ := same
  constructor <;> simp only [phase, bits, bytes, acc, enc, serial, button]
  exacts [ok.seek, ok.reading, ok.finishing, ok.bytes, ok.byteAcc, ok.encDone, ok.encLanes, ok.serial, ok.button]

theorem frameReset_frameOk (cur : Sample) (s : State) : FrameOk (s.frameReset cur) := by
  constructor <;> simp

theorem commitEntry_frameOk {s : State} (ok : FrameOk s) : FrameOk (commitEntry s) := by
  obtain ⟨-, e⟩ | ⟨-, e⟩ := commitEntry_cases s <;> rw [e]
  · exact frameReset_frameOk _ s
  · exact ok

/-- A frame with a bit that has not ended is being read (R29). -/
theorem FrameOk.reading_of_bits {s : State} (ok : FrameOk s) (inFrame : s.phase ≠ .finishing)
    (hasBit : 1 ≤ s.bits_consumed.toNat) : s.phase = .reading := by
  cases phase : s.phase with
  | seek => have := ok.seek phase; omega
  | reading => rfl
  | finishing => exact absurd phase inFrame

section
variable {u : State} (b : BitVec 1) (pe : Sample) (ok : FrameOk u) (room : u.bits_consumed.toNat < 65535)
include ok room

/-- The serial field is filled from its lowest bit on (R45 item 6). -/
theorem headerRest_serial_lt (filling : u.bits_consumed.toNat + 1 ≤ 60) :
    (headerRest b pe (countBit u)).serial_acc.toNat < 2 ^ (u.bits_consumed.toNat + 1 - 32) := by
  have before := ok.serial (by omega)
  rw [headerRest_serial_acc, countBit_toNat room]
  split
  · rw [show u.bits_consumed.toNat + 1 - 32 = u.bits_consumed.toNat + 1 - 33 + 1 by omega]
    exact or_shiftLeft_toNat_lt b (before.trans_le (Nat.pow_le_pow_right two_pos (by omega)))
  · exact before.trans_le (Nat.pow_le_pow_right two_pos (by omega))

/-- The button field is filled from its lowest bit on (R45 item 7). -/
theorem headerRest_button_lt (filling : u.bits_consumed.toNat + 1 ≤ 64) :
    (headerRest b pe (countBit u)).button_acc.toNat < 2 ^ (u.bits_consumed.toNat + 1 - 60) := by
  have before := ok.button (by omega)
  rw [headerRest_button_acc, countBit_toNat room]
  split
  · rw [show u.bits_consumed.toNat + 1 - 60 = u.bits_consumed.toNat + 1 - 61 + 1 by omega]
    exact or_shiftLeft_toNat_lt b (before.trans_le (Nat.pow_le_pow_right two_pos (by omega)))
  · exact before.trans_le (Nat.pow_le_pow_right two_pos (by omega))

variable (inFrame : u.phase ≠ .finishing)
include inFrame

/-- Where a byte is complete, the byte count is below its width and goes up by one (R31, R180). -/
theorem succ_bytes_eq_div (ready : (u.bits_consumed.toNat + 1) % 8 = 0) :
    (u.bytes_consumed + 1).toNat = (u.bits_consumed.toNat + 1) / 8 := by
  have bytes := ok.bytes inFrame
  rw [BitVec.toNat_add, show (1 : BitVec 13).toNat = 1 from rfl]
  omega

/-- The byte count goes on being the bit count by eight (R45 item 3). -/
theorem headerRest_bytes_eq_div : (headerRest b pe (countBit u)).bytes_consumed.toNat = (u.bits_consumed.toNat + 1) / 8 := by
  have bytes := ok.bytes inFrame
  rw [headerRest_bytes_consumed, countBit_toNat room, countBit_bytes_consumed]
  split
  next ready => exact succ_bytes_eq_div ok room inFrame ready
  next => omega

/-- The low bits of the byte register that no bit of the byte has reached stay 0 (R45 item 4). -/
theorem headerRest_byteAcc_low_zero :
    (headerRest b pe (countBit u)).byte_acc.toNat % 2 ^ (8 - (u.bits_consumed.toNat + 1) % 8) = 0 := by
  rw [headerRest_byte_acc, countBit_toNat room]
  split
  · exact Nat.zero_mod _
  next notReady =>
    have places : 8 - (u.bits_consumed.toNat + 1) % 8 = 7 - u.bits_consumed.toNat % 8 := by omega
    rw [places]
    exact shiftInBit_low_zero b (by omega) (ok.byteAcc inFrame)

/-- The encrypted word is cleared with its portion, and no later byte goes into it (R45 item 5). -/
theorem headerRest_enc_cleared (done : 32 ≤ u.bits_consumed.toNat + 1) : (headerRest b pe (countBit u)).enc_word = 0 := by
  rw [headerRest_enc_word, countBit_toNat room]
  split
  · rfl
  next not32 =>
    have before : u.enc_word = 0 := ok.encDone (by omega)
    split
    next ready =>
      have count := succ_bytes_eq_div ok room inFrame ready
      rw [encInserted, countBit_bytes_consumed, if_neg (by omega), countBit_enc_word, before]
    next => exact before

/-- The encrypted word fills its lanes from the lowest on (R45 item 5). -/
theorem headerRest_enc_lt (filling : u.bits_consumed.toNat + 1 < 32) :
    (headerRest b pe (countBit u)).enc_word.toNat < 2 ^ (8 * ((u.bits_consumed.toNat + 1) / 8)) := by
  have lanes := ok.encLanes (by omega)
  rw [headerRest_enc_word, countBit_toNat room, if_neg (by omega)]
  split
  next ready =>
    have count := succ_bytes_eq_div ok room inFrame ready
    rw [encInserted, countBit_bytes_consumed, if_pos (by omega), count,
      show 8 * ((u.bits_consumed.toNat + 1) / 8) = 8 * ((u.bits_consumed.toNat + 1) / 8 - 1) + 8 by omega]
    exact or_shiftLeft_toNat_lt _ (lanes.trans_le (Nat.pow_le_pow_right two_pos (by omega)))
  next notReady => rwa [show (u.bits_consumed.toNat + 1) / 8 = u.bits_consumed.toNat / 8 by omega]

/-- A counted HEADER keeps items 1 to 7 of R45. -/
theorem headerRest_frameOk : FrameOk (headerRest b pe (countBit u)) := by
  have bits : (headerRest b pe (countBit u)).bits_consumed.toNat = u.bits_consumed.toNat + 1 := by
    rw [headerRest_bits_consumed, countBit_toNat room]
  constructor <;> simp only [headerRest_phase, bits]
  case seek | finishing => simp
  case reading => omega
  case bytes => exact fun _ => headerRest_bytes_eq_div b pe ok room inFrame
  case byteAcc => exact fun _ => headerRest_byteAcc_low_zero b pe ok room inFrame
  case encDone => exact headerRest_enc_cleared b pe ok room inFrame
  case encLanes => exact headerRest_enc_lt b pe ok room inFrame
  case serial => exact headerRest_serial_lt b pe ok room
  case button => exact headerRest_button_lt b pe ok room

end

/-- A counted FRAME_END leaves a frame of more than 65 bits in FINISHING, of which R45 bounds no accumulator. -/
theorem frameEndRest_frameOk {s : State} {pe : Sample} (b : BitVec 1) (ok : FrameOk s) (accepted : s.verdict pe = .frameEnd)
    (room : s.bits_consumed.toNat < 65535) : FrameOk (frameEndRest b (countBit s)) := by
  obtain ⟨-, -, many, -⟩ := verdict_frameEnd accepted
  have bits : (frameEndRest b (countBit s)).bits_consumed.toNat = s.bits_consumed.toNat + 1 := countBit_toNat room
  have enc : (frameEndRest b (countBit s)).enc_word = 0 := ok.encDone (by omega)
  have phase : (frameEndRest b (countBit s)).phase = .finishing := rfl
  constructor <;> simp only [phase, bits, enc, reduceCtorEq, ne_eq, not_true_eq_false, false_implies, implies_true] <;> omega

/-- Settles O48, by the effect of the step. -/
theorem stepKeepsFrameOk : Obligations.StepKeepsFrameOk := by
  intro s t ok h
  have entry : FrameOk s.consume := ok.of_sameDecoder (by simp [SameDecoder])
  cases effect_of_step h with
  | stays => exact ok
  | consumes => exact entry
  | configures | refusesStart | capturesMid | overflows => exact entry.of_sameDecoder (by simp [SameDecoder])
  | starts => exact (frameReset_frameOk 0 s.consume).of_sameDecoder (by simp [SameDecoder])
  | syncs _ p => exact (frameReset_frameOk p s.consume).of_sameDecoder (sameDecoder_beginPeriod _ p)
  | rejects _ pe => exact (frameReset_frameOk pe s.consume).of_sameDecoder (sameDecoder_beginPeriod _ pe)
  | header _ pe _ room =>
    exact (headerRest_frameOk _ pe (commitEntry_frameOk entry) room (commitEntry_phase_ne_finishing _)).of_sameDecoder
      (sameDecoder_beginPeriod _ pe)
  | frameEnd _ pe accepted room =>
    exact (frameEndRest_frameOk _ entry accepted room).of_sameDecoder (sameDecoder_beginPeriod _ pe)

end Sys2Proof.Machine
end

section
/-! What any step may write: the control, the configuration, the fault status, the phase and the bit counter (R24, R26, R30, R44,
R189, R260). -/

namespace Sys2Proof.Machine

/-- Settles O37: each effect that writes `ctl` runs in one control state. -/
theorem controlTransitions : Obligations.ControlTransitions := by
  intro s t h
  cases effect_of_step h with
  | stays | consumes | configures => exact .inl rfl
  | refusesStart idle => exact .inr (.inl ⟨idle, .inr rfl⟩)
  | starts idle => exact .inr (.inl ⟨idle, .inl rfl⟩)
  | syncs sync => exact .inr (.inr (.inl ⟨sync, rfl⟩))
  | capturesMid mid => exact .inr (.inr (.inr (.inl ⟨mid, rfl⟩)))
  | rejects ended | header ended | frameEnd ended => exact .inr (.inr (.inr (.inr ⟨ended, .inl rfl⟩)))
  | overflows ended => exact .inr (.inr (.inr (.inr ⟨ended, .inr rfl⟩)))

/-- Settles O38: CFG alone writes the configuration, and a commit leaves it as it is. -/
theorem configurationFrozenOutsideIdle : Obligations.ConfigurationFrozenOutsideIdle := by
  intro s t h outside
  cases effect_of_step h with
  | stays | consumes | refusesStart | starts | syncs | capturesMid | rejects | overflows | frameEnd => exact ⟨rfl, rfl⟩
  | configures idle => exact absurd idle outside
  | header => simp [headerRest_frame, commitEntry_control]

/-- Settles O39: only the two effects that raise a fault write `err`. -/
theorem errWrittenOnlyByFaults : Obligations.ErrWrittenOnlyByFaults := by
  intro s t h changed
  cases effect_of_step h with
  | stays | consumes | configures | starts | syncs | capturesMid | rejects | frameEnd => exact absurd rfl changed
  | refusesStart idle noRate => exact ⟨rfl, .inl ⟨idle, noRate, rfl⟩⟩
  | overflows ended _ full => exact ⟨rfl, .inr ⟨ended, full, rfl⟩⟩
  | header => simp [headerRest_frame, commitEntry_control] at changed

/-- Settles O40: outside a committed end edge the phase stays or a frame reset makes it SEEK; a FRAME_END leaves it FINISHING
and a HEADER READING. -/
theorem phaseMachine : Obligations.PhaseMachine := by
  intro s t h
  cases effect_of_step h with
  | stays | consumes | configures =>
    exact ⟨fun fin => .inl ⟨fin, fun ⟨ended, began⟩ => nomatch ended.symm.trans began⟩, .inl, .inl⟩
  | refusesStart | overflows => exact ⟨fun fin => .inl ⟨fin, by simp⟩, .inl, .inl⟩
  | starts idle => simp [idle]
  | syncs sync => simp [sync]
  | capturesMid mid => simp [mid]
  | rejects ended => simp [ended]
  | header ended => simp [ended, headerRest_phase]
  | frameEnd ended _ accepted =>
    obtain ⟨-, -, many, reading⟩ := verdict_frameEnd accepted
    simp [ended, many, reading, frameEndRest]

/-- Settles O41: a commit counts its bit in the state it classifies in, where the counter is not full. -/
theorem bitCounterNeverWraps : Obligations.BitCounterNeverWraps := by
  intro s t h
  cases effect_of_step h with
  | stays | consumes | configures | refusesStart | capturesMid | overflows => exact .inl rfl
  | starts | syncs | rejects => exact .inr (.inr (.inl ⟨rfl, rfl⟩))
  | header _ pe _ room =>
    obtain ⟨fin, e⟩ | ⟨-, e⟩ := commitEntry_cases s.consume
    · exact .inr (.inr (.inr ⟨fin, by simp [headerRest_bits_consumed, e], by simp [headerRest_phase]⟩))
    · rw [e] at room ⊢
      exact .inr (.inl (by rw [headerRest_bits_consumed, countBit_toNat room]; rfl))
  | frameEnd _ _ _ room => exact .inr (.inl (countBit_toNat room))

/-- Settles O43: by the control state of each effect and the registers it writes. -/
theorem registersWrittenOnlyWhereTheTableSays : Obligations.RegistersWrittenOnlyWhereTheTableSays := by
  intro s t h
  rw [← SameDecoder]
  cases effect_of_step h with
  | stays => simp [SameDecoder]
  | consumes | configures | refusesStart => simp [SameDecoder]
  | starts idle => simp [idle]
  | syncs sync => simp [sync]
  | capturesMid mid => simp [mid, SameDecoder]
  | overflows ended | rejects ended | frameEnd ended => simp [ended, frameEndRest]
  | header ended => simp [ended, headerRest_frame, commitEntry_control]

/-! ## The control invariant (R24, R26, R153, R252) -/

/-- Settles O47: a session begins with a rate and an empty frame, and a fault raises `err` and halts at once. -/
theorem stepKeepsControlOk : Obligations.StepKeepsControlOk := by
  intro s t ok h
  obtain ⟨legal, faultHalts, rate, fresh⟩ := ok
  cases effect_of_step h with
  | stays | consumes => exact ⟨legal, faultHalts, rate, fresh⟩
  | configures idle => exact ⟨legal, faultHalts, by simp [idle, inSession], fresh⟩
  | refusesStart | overflows => constructor <;> simp [inSession]
  | starts idle hasRate => constructor <;> simp_all
  | syncs live | capturesMid live | rejects live => constructor <;> simp_all [inSession]
  | frameEnd ended => constructor <;> simp_all [inSession, frameEndRest]
  | header ended => constructor <;> simp_all [inSession, headerRest_frame, commitEntry_control]

end Sys2Proof.Machine
end

section
/-! Every step keeps the markers in order and the length of the last period in range (R45 items 8 and 9, R144, R172, R176). -/

namespace Sys2Proof.Machine

/-! ## The markers (R45 item 8) -/

theorem MarkersOk.of_sameDecoder {s t : State} (ok : MarkersOk s) (same : SameDecoder s t) (start : t.p_start = s.p_start)
    (live : t.ctl = .waitMid ∨ t.ctl = .waitEnd → s.ctl = .waitMid ∨ s.ctl = .waitEnd) : MarkersOk t := by
  obtain ⟨phase, -, -, -, -, -, -, bit, byte, portion, -⟩ := same
  constructor <;> simp only [phase, bit, byte, portion, start]
  exacts [fun inPeriod => ok.atStart (live inPeriod), ok.bitLe, ok.byteLe, ok.portionLe]

/-- A frame reset at the edge that begins a period puts every marker there (R172). -/
theorem frameReset_markersOk (s : State) (p : Sample) :
    MarkersOk { s.frameReset p with p_start := p, ctl := .waitMid } := by
  constructor <;> simp

theorem commitEntry_markersOk {s : State} (ok : MarkersOk s) : MarkersOk (commitEntry s) := by
  obtain ⟨-, e⟩ | ⟨-, e⟩ := commitEntry_cases s <;> rw [e]
  · constructor <;> simp
  · exact ok

/-- A HEADER brings the bit marker to its end edge, after the period's start, and every other marker there or nowhere. -/
theorem headerRest_markersOk {u : State} {pe : Sample} (b : BitVec 1) (ok : MarkersOk u)
    (accepted : u.verdict pe = .header) :
    MarkersOk { headerRest b pe (countBit u) with p_start := pe, ctl := .waitMid } := by
  obtain ⟨startLtMid, midLtEnd, -, -⟩ := verdict_header accepted
  obtain ⟨-, bitLe, byteLe, portionLe⟩ := ok
  constructor
  case atStart => simp [headerRest_bit_position]
  case bitLe => simp [headerRest_bit_position]
  case byteLe =>
    simp only [headerRest_bit_position, headerRest_byte_position, countBit_byte_position]
    split <;> omega
  case portionLe =>
    simp only [headerRest_bit_position, headerRest_portion_position, countBit_portion_position]
    split <;> omega

/-- A FRAME_END moves no marker, and the next period begins after all of them. -/
theorem frameEndRest_markersOk {u : State} {pe : Sample} (b : BitVec 1) (ok : MarkersOk u)
    (accepted : u.verdict pe = .frameEnd) :
    MarkersOk { frameEndRest b (countBit u) with p_start := pe, ctl := .waitMid } := by
  obtain ⟨startLtMid, midLtEnd, -, -⟩ := verdict_frameEnd accepted
  obtain ⟨-, bitLe, byteLe, portionLe⟩ := ok
  have later : u.bit_position.toNat ≤ pe.toNat := by omega
  exact ⟨fun _ inFrame => absurd rfl inFrame, later, byteLe, portionLe⟩

/-- Settles O50: outside a commit the markers stay or are reset to the sample at hand, and a commit's period is well formed. -/
theorem stepKeepsMarkersOk : Obligations.StepKeepsMarkersOk := by
  intro s t ok h
  have entry : MarkersOk s.consume := ok.of_sameDecoder (by simp [SameDecoder]) rfl id
  cases effect_of_step h with
  | stays => exact ok
  | consumes => exact entry
  | configures => exact entry.of_sameDecoder (by simp [SameDecoder]) rfl id
  | refusesStart | overflows => exact entry.of_sameDecoder (by simp [SameDecoder]) rfl (by simp)
  | capturesMid mid => exact entry.of_sameDecoder (by simp [SameDecoder]) rfl fun _ => .inl mid
  | starts => constructor <;> simp
  | syncs _ p => exact frameReset_markersOk _ p
  | rejects _ pe => exact frameReset_markersOk _ pe
  | header _ _ accepted => exact headerRest_markersOk _ (commitEntry_markersOk entry) accepted
  | frameEnd _ _ accepted => exact frameEndRest_markersOk _ entry accepted

/-! ## The length of the last period (R45 item 9) -/

theorem LengthOk.of_sameDecoder {s t : State} (ok : LengthOk s) (same : SameDecoder s t) (rate : t.cfg_rate = s.cfg_rate) :
    LengthOk t := by
  obtain ⟨-, bits, -, -, -, -, -, -, -, -, length⟩ := same
  constructor <;> simp only [bits, length, rate]
  exacts [ok.inRange, ok.cleared]

/-- A frame with no bits and no length has item 9 of R45 at every rate. -/
theorem lengthOk_of_empty {s : State} (bits : s.bits_consumed = 0) (length : s.last_period_length = 0) : LengthOk s := by
  constructor <;> simp [bits, length]

theorem frameReset_lengthOk (cur : Sample) (s : State) : LengthOk (s.frameReset cur) := lengthOk_of_empty rfl rfl

theorem commitEntry_lengthOk {s : State} (ok : LengthOk s) : LengthOk (commitEntry s) := by
  obtain ⟨-, e⟩ | ⟨-, e⟩ := commitEntry_cases s <;> rw [e]
  · exact frameReset_lengthOk _ s
  · exact ok

/-- A HEADER stores the length of a period in the window of R144. -/
theorem headerRest_lengthOk {u : State} {pe : Sample} (b : BitVec 1) (accepted : u.verdict pe = .header)
    (room : u.bits_consumed.toNat < 65535) : LengthOk (headerRest b pe (countBit u)) := by
  obtain ⟨startLtMid, midLtEnd, longEnough, shortEnough⟩ := verdict_header accepted
  have bits : (headerRest b pe (countBit u)).bits_consumed.toNat = u.bits_consumed.toNat + 1 := by
    rw [headerRest_bits_consumed, countBit_toNat room]
  have length : (headerRest b pe (countBit u)).last_period_length.toNat = pe.toNat - u.p_start.toNat := by
    rw [headerRest_last_period_length, countBit_p_start, BitVec.toNat_sub_of_le (BitVec.le_def.2 (by omega))]
  obtain ⟨rate, -⟩ := headerRest_frame b pe (countBit u)
  constructor
  · rw [length, rate, countBit_cfg_rate]
    omega
  · rw [bits]
    omega

/-- A FRAME_END leaves the length, in a frame that already had a bit. -/
theorem frameEndRest_lengthOk {u : State} {pe : Sample} (b : BitVec 1) (ok : LengthOk u) (accepted : u.verdict pe = .frameEnd)
    (room : u.bits_consumed.toNat < 65535) : LengthOk (frameEndRest b (countBit u)) := by
  obtain ⟨-, -, many, -⟩ := verdict_frameEnd accepted
  have bits : (frameEndRest b (countBit u)).bits_consumed.toNat = u.bits_consumed.toNat + 1 := countBit_toNat room
  exact ⟨fun _ => ok.inRange (by omega), by rw [bits]; omega⟩

/-- Settles O51: the rate changes only in IDLE, where the frame has no bits, and a commit stores the length of its HEADER. -/
theorem stepKeepsLengthOk : Obligations.StepKeepsLengthOk := by
  intro s t control ok h
  have entry : LengthOk s.consume := ok.of_sameDecoder (by simp [SameDecoder]) rfl
  cases effect_of_step h with
  | stays => exact ok
  | consumes => exact entry
  | configures idle =>
    obtain ⟨-, bits⟩ := control.fresh (.inl idle)
    exact lengthOk_of_empty bits (ok.cleared (by simp [bits]))
  | refusesStart | capturesMid | overflows => exact entry.of_sameDecoder (by simp [SameDecoder]) rfl
  | starts | syncs | rejects => exact lengthOk_of_empty rfl rfl
  | header _ pe accepted room =>
    have counted := headerRest_lengthOk (commitEntry s.consume).periodBit accepted room
    exact counted.of_sameDecoder (sameDecoder_beginPeriod _ pe) (by simp)
  | frameEnd _ pe accepted room =>
    have counted := frameEndRest_lengthOk s.periodBit entry accepted room
    exact counted.of_sameDecoder (sameDecoder_beginPeriod _ pe) (by simp)

end Sys2Proof.Machine
end

section
/-! Every reachable state has every invariant, and its step answers next (R45, R48, R88, R223, R225). -/

namespace Sys2Proof.Machine

/-! ## What a fault leaves (R222, R224) -/

theorem faultOk_of_err_none {s : State} (noFault : s.err = .none) : FaultOk s := by
  constructor <;> simp [noFault]

/-- A fault is raised from a state without one, whose registers it leaves as the fault's condition found them. -/
theorem step_faultOk {s t : State} (control : ControlOk s) (frame : FrameOk s) (ok : FaultOk s) (h : step s = .next t) :
    FaultOk t := by
  have noFault (live : s.ctl ≠ .halt) : s.err = .none := control.faultHalts.2 live
  cases effect_of_step h with
  | stays => exact ok
  | consumes live =>
    exact faultOk_of_err_none (noFault (by obtain c | c | c | c := live <;> simp [c]))
  | configures running | starts running | syncs running | capturesMid running | rejects running | frameEnd running =>
    exact faultOk_of_err_none (noFault (by simp [running]))
  | header ended => exact faultOk_of_err_none (by simp [headerRest_frame, commitEntry_control, noFault, ended])
  | refusesStart idle noRate =>
    obtain ⟨phase, bits⟩ := control.fresh (.inl idle)
    exact ⟨fun _ => ⟨noRate, phase, bits⟩, by simp⟩
  | overflows ended inFrame full =>
    exact ⟨by simp, fun _ => ⟨frame.reading_of_bits inFrame (by omega), full⟩⟩

/-! ## What a HEADER adds to each channel (R71, R72, R263) -/

theorem headerRest_rawOf (b : BitVec 1) (pe : Sample) (u : State) :
    (headerRest b pe u).trace.filterMap rawOf = u.trace.filterMap rawOf ++
      if u.bits_consumed.toNat % 8 = 0 then [(u.byte_position, pe, shifted b u)] else [] := by
  simp only [headerRest_trace, List.filterMap_append, apply_ite (List.filterMap rawOf), List.filterMap_cons,
    List.filterMap_nil, rawOf]
  simp

theorem headerRest_byteOf (b : BitVec 1) (pe : Sample) (u : State) :
    (headerRest b pe u).trace.filterMap byteOf = u.trace.filterMap byteOf ++
      if u.bits_consumed.toNat % 8 = 0 then [(u.byte_position, pe, shifted b u)] else [] := by
  simp only [headerRest_trace, List.filterMap_append, apply_ite (List.filterMap byteOf), List.filterMap_cons,
    List.filterMap_nil, byteOf]
  simp

theorem headerRest_bitStop (b : BitVec 1) (pe : Sample) (u : State) :
    (headerRest b pe u).trace.filterMap bitStop = u.trace.filterMap bitStop ++ [pe] := by
  simp [headerRest_trace, apply_ite (List.filterMap bitStop), bitStop]

theorem headerRest_portionStop (b : BitVec 1) (pe : Sample) (u : State) :
    (headerRest b pe u).trace.filterMap portionStop = u.trace.filterMap portionStop ++
      if u.bits_consumed.toNat = 32 ∨ u.bits_consumed.toNat = 60 ∨ u.bits_consumed.toNat = 64 then [pe] else [] := by
  simp only [headerRest_trace, List.filterMap_append, apply_ite (List.filterMap portionStop), List.filterMap_cons,
    List.filterMap_nil, portionStop]
  by_cases h32 : u.bits_consumed.toNat = 32
  · simp [h32]
  by_cases h60 : u.bits_consumed.toNat = 60
  · simp [h60]
  by_cases h64 : u.bits_consumed.toNat = 64 <;> simp [h32, h60, h64]

/-! ## The raw bytes (R72, R181) -/

/-- A HEADER emits a raw byte with every byte event, a FRAME_END neither. -/
theorem step_rawMirrorsBytes {s t : State} (ok : RawMirrorsBytes s.trace) (h : step s = .next t) :
    RawMirrorsBytes t.trace := by
  cases effect_of_step h with
  | stays | consumes | configures | refusesStart | starts | syncs | capturesMid | rejects | overflows => exact ok
  | header =>
    have entry : RawMirrorsBytes (commitEntry s.consume).trace := by simpa [commitEntry_control] using ok
    simp only [RawMirrorsBytes, headerRest_rawOf, headerRest_byteOf, countBit_trace] at entry ⊢
    rw [entry]
  | frameEnd => simpa [RawMirrorsBytes, frameEndRest, List.filterMap_cons, rawOf, byteOf] using ok

/-! ## The spans (R263) -/

theorem spansMeet_of_not_reading {s : State} (h : s.phase ≠ .reading) : SpansMeet s :=
  ⟨fun reading => absurd reading h, fun reading => absurd reading h, fun reading => absurd reading h⟩

theorem SpansMeet.of_sameDecoder {s t : State} (ok : SpansMeet s) (same : SameDecoder s t) (trace : t.trace = s.trace) :
    SpansMeet t := by
  obtain ⟨phase, bits, -, -, -, -, -, bit, byte, portion, -⟩ := same
  constructor <;> simp only [phase, bits, bit, byte, portion, trace]
  exacts [ok.bit, ok.byte, ok.portion]

theorem commitEntry_spansMeet {s : State} (ok : SpansMeet s) : SpansMeet (commitEntry s) := by
  obtain ⟨-, e⟩ | ⟨-, e⟩ := commitEntry_cases s <;> rw [e]
  · exact spansMeet_of_not_reading (by simp)
  · exact ok

/-- On each channel a HEADER either emits an event that ends at the marker's new place, or leaves channel and marker alone. -/
theorem headerRest_spansMeet {u : State} (b : BitVec 1) (pe : Sample) (frame : FrameOk u) (inFrame : u.phase ≠ .finishing)
    (room : u.bits_consumed.toNat < 65535) (ok : SpansMeet u) : SpansMeet (headerRest b pe (countBit u)) := by
  have reading (hasBit : 1 ≤ u.bits_consumed.toNat) : u.phase = .reading := frame.reading_of_bits inFrame hasBit
  constructor
  case bit => simp [headerRest_bitStop, headerRest_bit_position]
  case byte =>
    rw [headerRest_byteOf, headerRest_byte_position, headerRest_bits_consumed, countBit_toNat room]
    intro _ many
    split
    next => simp
    next => simpa using ok.byte (reading (by omega)) (by omega)
  case portion =>
    rw [headerRest_portionStop, headerRest_portion_position, headerRest_bits_consumed, countBit_toNat room]
    intro _ many
    split
    next => simp
    next => simpa using ok.portion (reading (by omega)) (by omega)

theorem step_spansMeet {s t : State} (frame : FrameOk s) (ok : SpansMeet s) (h : step s = .next t) : SpansMeet t := by
  have entryFrame : FrameOk s.consume := frame.of_sameDecoder (by simp [SameDecoder])
  have entry : SpansMeet s.consume := ok.of_sameDecoder (by simp [SameDecoder]) rfl
  cases effect_of_step h with
  | stays => exact ok
  | consumes => exact entry
  | configures | refusesStart | capturesMid | overflows => exact entry.of_sameDecoder (by simp [SameDecoder]) rfl
  | starts | syncs | rejects => exact spansMeet_of_not_reading (by simp)
  | header _ pe _ room =>
    have counted := headerRest_spansMeet (commitEntry s.consume).periodBit pe (commitEntry_frameOk entryFrame)
      (commitEntry_phase_ne_finishing _) room (commitEntry_spansMeet entry)
    exact counted.of_sameDecoder (sameDecoder_beginPeriod _ pe) (by simp)
  | frameEnd => exact spansMeet_of_not_reading (by simp [frameEndRest])

/-! ## Reset (R47) -/

theorem reset_controlOk : ControlOk State.reset := by
  constructor <;> simp [State.reset, inSession]

theorem reset_frameBits : FrameBits State.reset [] := by
  constructor <;> simp [State.reset, littleEndian]

theorem reset_frameTally : FrameTally State.reset 0 := by
  refine ⟨Nat.zero_le _, fun k => ?_⟩
  cases k with
  | bit | byte | raw => rfl
  | portion p => cases p <;> rfl

/-- Settles O46: the registers at reset are those of a frame reset at sample 0, in IDLE with no fault and an empty trace. -/
theorem resetHasEveryInvariant : Obligations.ResetHasEveryInvariant :=
  ⟨reset_controlOk, frameReset_frameOk 0 State.reset, faultOk_of_err_none rfl, by constructor <;> simp [State.reset],
    lengthOk_of_empty rfl rfl, rfl, spansMeet_of_not_reading (by simp [State.reset]), reset_frameBits, reset_frameTally⟩

/-! ## Reachable states -/

/-- All seven invariants. -/
structure Safe (s : State) : Prop where
  control : ControlOk s
  frame : FrameOk s
  fault : FaultOk s
  markers : MarkersOk s
  length : LengthOk s
  raw : RawMirrorsBytes s.trace
  spans : SpansMeet s

theorem reset_safe : Safe State.reset := by
  obtain ⟨control, frame, fault, markers, length, raw, spans, -⟩ := resetHasEveryInvariant
  exact ⟨control, frame, fault, markers, length, raw, spans⟩

/-- No invariant reads what the host offers and takes. -/
theorem Safe.with_host_side {s : State} (ok : Safe s) (ts : List TokenWord) (n : Nat) (r : Bool) :
    Safe { s with tokens := ts, untaken := n, sinkReady := r } := by
  obtain ⟨⟨legal, faultHalts, rate, fresh⟩, frame, ⟨config, overflow⟩, markers, length, raw, spans⟩ := ok
  have same : SameDecoder s { s with tokens := ts, untaken := n, sinkReady := r } := by simp [SameDecoder]
  exact ⟨⟨legal, faultHalts, rate, fresh⟩, frame.of_sameDecoder same, ⟨config, overflow⟩,
    markers.of_sameDecoder same rfl id,
    length.of_sameDecoder same rfl, raw, spans.of_sameDecoder same rfl⟩

/-- A host act changes the host's side only, a reset pulse that of the state after reset. -/
theorem Safe.hostAct {s : State} (ok : Safe s) (a : HostAct) : Safe (s.hostAct a) := by
  cases a with
  | offer | takeEvent | openSink | closeSink => exact ok.with_host_side _ _ _
  | pulseReset => exact reset_safe.with_host_side _ _ _

theorem Safe.step {s t : State} (ok : Safe s) (h : Machine.step s = .next t) : Safe t where
  control := stepKeepsControlOk s t ok.control h
  frame := stepKeepsFrameOk s t ok.frame h
  fault := step_faultOk ok.control ok.frame ok.fault h
  markers := stepKeepsMarkersOk s t ok.markers h
  length := stepKeepsLengthOk s t ok.control ok.length h
  raw := step_rawMirrorsBytes ok.raw h
  spans := step_spansMeet ok.frame ok.spans h

theorem safe_of_reachable {s : State} (h : Reachable s) : Safe s := by
  induction h with
  | reset => exact reset_safe
  | host a _ ih => exact ih.hostAct a
  | step _ stepped ih => exact ih.step stepped

/-- Settles O54: the invariants are inductive over runs, and a control state that is not reserved answers next. -/
theorem reachableStatesAreSafe : Obligations.ReachableStatesAreSafe := by
  intro s h
  obtain ⟨control, frame, fault, markers, length, raw, spans⟩ := safe_of_reachable h
  exact ⟨control, frame, fault, markers, length, raw, spans, step_answers_next control.legal⟩

end Sys2Proof.Machine
end

section
/-! The host's channels (20_memory.md): backpressure, the order of a step's events, the trace invariants, and what the host can do
between two steps. -/

namespace Sys2Proof.Machine

/-! ## Backpressure (R77, R133, R236, R261) -/

/-- With an event to take or no token offered, a step changes nothing. -/
theorem step_of_waiting {s : State} (waiting : s.untaken ≠ 0 ∨ s.tokens = []) : step s = .next s := by
  obtain ⟨nothing, -⟩ | ⟨w, rest, taken, offered, -⟩ := fetch_cases s
  · rw [step, nothing]
  · simp [taken, offered] at waiting

/-- An accepted period leaves its events to be taken if the rest of its commit does; a full counter emits none (R175). -/
theorem accept_leavesToTake {rest : State → State} (s : State) (emits : LeavesToTake (countBit s) (rest (countBit s))) :
    LeavesToTake s (accept rest s).state := by
  obtain ⟨-, e⟩ | ⟨-, e⟩ := accept_cases rest s <;> rw [e, Flow.state]
  · exact LeavesToTake.refl s
  · exact (countBit_leavesToTake s).trans emits

/-- An end edge consumes its token, which emits nothing, and leaves its commit's events to be taken (R127). -/
theorem edgeEnd_leavesToTake (pe : Sample) (s : State) : LeavesToTake s (endPeriod pe (commit pe s.consume)) :=
  LeavesToTake.trans (t := s.consume) (LeavesToTake.refl s)
    (endPeriod_leavesToTake pe (commit_leavesToTake pe s.consume))

theorem step_leavesToTake {s t : State} (h : step s = .next t) : LeavesToTake s t := by
  obtain rfl | ⟨-, -, rfl⟩ | ⟨-, pol, rate, rfl⟩ | ⟨-, -, rfl⟩ | ⟨-, -, rfl⟩ | ⟨w, -, -, -, -, rfl⟩ |
    ⟨w, -, -, -, -, rfl⟩ | ⟨w, -, -, -, -, rfl⟩ := step_cases h
  case inl => exact LeavesToTake.refl t
  case inr.inr.inr.inr.inr.inr.inr => exact edgeEnd_leavesToTake (tokenPayload w) s
  all_goals exact LeavesToTake.refl s

/-- Settles O7: each operation that emits does so by `emit`, one event at a time, and no other writes the channel. -/
theorem stepHoldsOrWaits : Obligations.StepHoldsOrWaits := by
  refine ⟨fun s => step_of_waiting, fun s t => step_leavesToTake, fun level pe s t h => ?_⟩
  obtain e | e | e := h <;> cases e
  · exact edgeEnd_leavesToTake pe s
  · exact accept_leavesToTake s (headerRest_leavesToTake s.periodBit pe (countBit s))
  · exact accept_leavesToTake s (frameEndRest_leavesToTake s.periodBit (countBit s))

/-! ## The order of a step's events (R71) -/

/-- The events of a HEADER commit are a sublist of bit, byte, raw byte and the one portion that its count may complete. -/
theorem headerRest_kinds (b : BitVec 1) (pe : Sample) (u : State) :
    ∃ evs p, (headerRest b pe u).trace = u.trace ++ evs ∧
      (evs.map Event.kind).Sublist [.bit, .byte, .raw, .portion p] := by
  rw [headerRest_trace]
  simp only [List.append_assoc]
  by_cases n32 : u.bits_consumed.toNat = 32
  · exact ⟨_, .enc, rfl, by simp [n32, Event.kind]⟩
  by_cases n60 : u.bits_consumed.toNat = 60
  · exact ⟨_, .serial, rfl, by simp [n60, Event.kind]⟩
  refine ⟨_, .button, rfl, ?_⟩
  by_cases n64 : u.bits_consumed.toNat = 64
  · simp [n64, Event.kind]
  by_cases ready : u.bits_consumed.toNat % 8 = 0 <;> simp [n32, n60, n64, ready, Event.kind]

/-- Settles O36: only a HEADER or a FRAME_END emits, both where an end edge commits and begins the next period. -/
theorem outputOrderOfAStep : Obligations.OutputOrderOfAStep := by
  intro s t h
  cases effect_of_step h with
  | stays | consumes | configures | refusesStart | starts | syncs | capturesMid | rejects | overflows =>
    exact ⟨[], .enc, by simp, by simp, by simp⟩
  | header ended pe =>
    obtain ⟨evs, p, trace, kinds⟩ :=
      headerRest_kinds (commitEntry s.consume).periodBit pe (countBit (commitEntry s.consume))
    exact ⟨evs, p, by simpa [commitEntry_control] using trace, kinds, fun _ => ⟨ended, rfl⟩⟩
  | frameEnd ended => exact ⟨[_], .enc, rfl, by simp [Event.kind], fun _ => ⟨ended, rfl⟩⟩

/-! ## The trace invariants (R72, R181, R263) -/

/-- Settles O52: the raw bytes mirror the byte events after every step, and the spans meet after one from a well-formed frame. -/
theorem stepKeepsTraceInvariants : Obligations.StepKeepsTraceInvariants :=
  fun _ _ frame h => ⟨fun raw => step_rawMirrorsBytes raw h, fun spans => step_spansMeet frame spans h⟩

/-! ## The acts of the host (R76 to R79) -/

/-- An act that is no reset pulse writes only the host's side. -/
theorem hostAct_host_side (s : State) {a : HostAct} (act : a ≠ .pulseReset) :
    ∃ ts n r, s.hostAct a = { s with tokens := ts, untaken := n, sinkReady := r } := by
  cases a with
  | offer | takeEvent | openSink | closeSink => exact ⟨_, _, _, rfl⟩
  | pulseReset => exact absurd rfl act

/-- Settles O53: a reset pulse leaves a safe state whatever it finds, and no invariant reads what another act writes. -/
theorem hostActsKeepInvariants : Obligations.HostActsKeepInvariants := by
  intro s a
  by_cases pulse : a = .pulseReset
  · subst pulse
    obtain ⟨control, frame, fault, markers, length, raw, spans⟩ :=
      reset_safe.with_host_side s.tokens State.reset.untaken s.sinkReady
    exact ⟨fun act => absurd rfl act, fun _ => control, fun _ => frame, fun _ => fault, fun _ => markers, fun _ => length,
      fun _ => raw, fun _ => spans⟩
  · obtain ⟨ts, n, r, e⟩ := hostAct_host_side s pulse
    have same : SameDecoder s { s with tokens := ts, untaken := n, sinkReady := r } := by simp [SameDecoder]
    rw [e]
    exact ⟨fun _ => ⟨ts, n, r, rfl⟩, fun ⟨legal, faultHalts, rate, fresh⟩ => ⟨legal, faultHalts, rate, fresh⟩,
      fun ok => ok.of_sameDecoder same, fun ⟨config, overflow⟩ => ⟨config, overflow⟩,
      fun ok => ok.of_sameDecoder same rfl id, fun ok => ok.of_sameDecoder same rfl, id,
      fun ok => ok.of_sameDecoder same rfl⟩

/-- Settles O45: what the host holds is not the block's to reset, and the trace it empties leaves nothing to take. -/
theorem hardwareResetLeavesTheHost : Obligations.HardwareResetLeavesTheHost :=
  fun s => ⟨hardwareReset_tokens s, hardwareReset_sinkReady s, hardwareReset_untaken s⟩

end Sys2Proof.Machine
end

section
/-! While the host offers strictly increasing edges, the captured edges stay in order (R76, R128, R141). -/

namespace Sys2Proof.Machine

/-! ## The offered edges (R82) -/

theorem edgeSamples_cons_of_edge {w : TokenWord} (edge : tokenKind w = .edge) (ts : List TokenWord) :
    edgeSamples (w :: ts) = tokenPayload w :: edgeSamples ts := by
  simp [edgeSamples, edge]

theorem edgeSamples_tail_sublist (ts : List TokenWord) : (edgeSamples ts.tail).Sublist (edgeSamples ts) :=
  (List.tail_sublist ts).filterMap _

/-! ## The host's duty, before and after a token -/

/-- A token taken without moving the last edge leaves the offered ones in order. -/
theorem EdgesIncrease.of_tail {s t : State} (ok : EdgesIncrease s) (tokens : t.tokens = s.tokens.tail)
    (last : ∀ l, t.lastEdge = some l → s.lastEdge = some l) (mid : t.ctl = .waitEnd → t.p_start.toNat < t.p_mid.toNat) :
    EdgesIncrease t where
  offered := tokens ▸ ok.offered.sublist (edgeSamples_tail_sublist s.tokens)
  afterLast l e captured offered :=
    ok.afterLast l e (last l captured) ((edgeSamples_tail_sublist s.tokens).subset (tokens ▸ offered))
  midAfterStart := mid

/-- An edge taken becomes the last one, before all those still offered. -/
theorem EdgesIncrease.of_edge {s t : State} {w : TokenWord} {rest : List TokenWord} (ok : EdgesIncrease s)
    (offered : s.tokens = w :: rest) (edge : tokenKind w = .edge) (tokens : t.tokens = rest)
    (last : t.lastEdge = some (tokenPayload w)) (mid : t.ctl = .waitEnd → t.p_start.toNat < t.p_mid.toNat) :
    EdgesIncrease t := by
  have increasing := ok.offered
  rw [offered, edgeSamples_cons_of_edge edge, List.pairwise_cons] at increasing
  obtain ⟨first, others⟩ := increasing
  refine ⟨tokens ▸ others, fun l e captured still => ?_, mid⟩
  rw [last, Option.some.injEq] at captured
  exact captured ▸ first e (tokens ▸ still)

/-- The edge that the host offers next lies after the last one taken. -/
theorem EdgesIncrease.lastEdge_lt {s : State} {w : TokenWord} {rest : List TokenWord} {l : Sample} (ok : EdgesIncrease s)
    (offered : s.tokens = w :: rest) (edge : tokenKind w = .edge) (last : s.lastEdge = some l) :
    l.toNat < (tokenPayload w).toNat := by
  refine ok.afterLast l _ last ?_
  rw [offered, edgeSamples_cons_of_edge edge]
  exact List.mem_cons_self

/-! ## The end of a period (R127) -/

/-- A committed end edge either starts the next period there or halts, and takes no further token. -/
theorem endPeriod_commit_cases (pe : Sample) (s : State) :
    (endPeriod pe (commit pe s)).tokens = s.tokens ∧
      ((endPeriod pe (commit pe s)).ctl = .halt ∨
        ((endPeriod pe (commit pe s)).ctl = .waitMid ∧ (endPeriod pe (commit pe s)).p_start = pe)) := by
  have entry : (commitEntry s).tokens = s.tokens := by
    obtain ⟨-, e⟩ | ⟨-, e⟩ := commitEntry_cases s <;> simp [e]
  obtain ⟨-, e⟩ | ⟨-, -, e⟩ | ⟨-, -, e⟩ | ⟨-, -, e⟩ := commit_cases pe s <;>
    simp [e, endPeriod, entry, headerRest_frame, frameEndRest]

/-- Settles O55: the last edge and the mid edge move only to the edge that a step takes, which lies after both. -/
theorem increasingEdgesAreNeverMalformed : Obligations.IncreasingEdgesAreNeverMalformed := by
  intro s t ok h
  obtain rfl | ⟨-, -, rfl⟩ | ⟨idle, pol, rate, rfl⟩ | ⟨idle, -, rfl⟩ | ⟨idle, -, rfl⟩ | ⟨w, rest, offered, edge, sync, rfl⟩ |
    ⟨w, rest, offered, edge, mid, rfl⟩ | ⟨w, rest, offered, edge, ended, rfl⟩ := step_cases h
  · exact ⟨ok, fun ended began => nomatch ended.symm.trans began⟩
  · exact ⟨ok.of_tail rfl (fun _ => id) ok.midAfterStart, fun ended began => nomatch ended.symm.trans began⟩
  · exact ⟨ok.of_tail rfl (fun _ => id) ok.midAfterStart, by simp [idle]⟩
  · exact ⟨ok.of_tail rfl (by simp [State.lastEdge]) (by simp), by simp⟩
  · exact ⟨ok.of_tail rfl (by simp [State.lastEdge]) (by simp), by simp⟩
  · exact ⟨ok.of_edge offered edge (by simp [offered]) rfl (by simp), by simp [sync]⟩
  · have afterStart := ok.lastEdge_lt offered edge (l := s.p_start) (by simp [State.lastEdge, mid])
    exact ⟨ok.of_edge offered edge (by simp [offered]) rfl fun _ => afterStart, by simp [mid]⟩
  · have afterMid := ok.lastEdge_lt offered edge (l := s.p_mid) (by simp [State.lastEdge, ended])
    obtain ⟨tokens, halted | ⟨began, start⟩⟩ := endPeriod_commit_cases (tokenPayload w) s.consume
    · exact ⟨ok.of_tail tokens (by simp [State.lastEdge, halted]) (by simp [halted]), by simp [halted]⟩
    · refine ⟨ok.of_edge offered edge (by simp [tokens, offered]) (by simp [State.lastEdge, began, start]) (by simp [began]),
        fun _ _ => ?_⟩
      rw [malformed_eq_false_iff, start]
      exact ⟨ok.midAfterStart ended, afterMid⟩

end Sys2Proof.Machine
end

section
/-! A HEADER commit's events in full, and a frame as the list of its bits (R61 to R64, R71, R190). -/

namespace Sys2Proof.Machine

/-! ## The HEADER row with room in the counter (R175) -/

/-- With room in the counter, HEADER counts its bit and runs the rest of its commit. -/
theorem exec_header_of_room (pe : Sample) {s : State} (room : s.bits_consumed.toNat < 65535) :
    exec (.header pe) s = .next (headerRest s.periodBit pe (countBit s)) := by
  obtain ⟨full, -⟩ | ⟨-, e⟩ := accept_cases (headerRest s.periodBit pe) s
  · omega
  · simp only [exec, execHeader, headerOp, e, Flow.state]

/-- Settles O32: the events of each layer, at the counted bit. -/
theorem headerEventsInFull : Obligations.HeaderEventsInFull := by
  intro pe s room
  refine ⟨_, exec_header_of_room pe room, ?_⟩
  rw [headerRest_trace, countBit_toNat room]
  by_cases n60 : s.bits_consumed.toNat + 1 = 60
  · simp [n60, insertSerialBit, State.periodBit]
  by_cases n64 : s.bits_consumed.toNat + 1 = 64
  · simp [n64, shifted, shiftInBit, insertButtonBit, State.periodBit]
  simp only [if_neg n60, if_neg n64]
  rfl

/-! ## The little-endian number of a frame (R64) -/

theorem littleEndian_append (bs : List (BitVec 1)) (b : BitVec 1) :
    littleEndian (bs ++ [b]) = littleEndian bs + 2 ^ bs.length * b.toNat := by
  induction bs with
  | nil => simp [littleEndian]
  | cons c cs ih =>
    simp only [List.cons_append, littleEndian, ih, List.length_cons, pow_succ]
    ring

theorem littleEndian_lt (bs : List (BitVec 1)) : littleEndian bs < 2 ^ bs.length := by
  induction bs with
  | nil => simp [littleEndian]
  | cons c cs ih =>
    have hc : c.toNat < 2 := c.isLt
    simp only [littleEndian, List.length_cons, pow_succ]
    omega

/-- Above the bits it already had, a longer list has its new bit. -/
theorem littleEndian_append_div (bs : List (BitVec 1)) (b : BitVec 1) {k : Nat} (h : k ≤ bs.length) :
    littleEndian (bs ++ [b]) / 2 ^ k = littleEndian bs / 2 ^ k + 2 ^ (bs.length - k) * b.toNat := by
  rw [littleEndian_append, show 2 ^ bs.length = 2 ^ k * 2 ^ (bs.length - k) by rw [← pow_add, Nat.add_sub_cancel' h], mul_assoc,
    Nat.add_mul_div_left _ _ (Nat.two_pow_pos k)]

/-- The bits below a place that the list had reached do not change. -/
theorem littleEndian_append_mod (bs : List (BitVec 1)) (b : BitVec 1) {k : Nat} (h : k ≤ bs.length) :
    littleEndian (bs ++ [b]) % 2 ^ k = littleEndian bs % 2 ^ k := by
  rw [littleEndian_append, show 2 ^ bs.length = 2 ^ k * 2 ^ (bs.length - k) by rw [← pow_add, Nat.add_sub_cancel' h], mul_assoc,
    Nat.add_mul_mod_self_left]

/-- No bit has reached a place at or above the list's length. -/
theorem littleEndian_div_eq_zero {bs : List (BitVec 1)} {k : Nat} (h : bs.length ≤ k) : littleEndian bs / 2 ^ k = 0 :=
  Nat.div_eq_of_lt ((littleEndian_lt bs).trans_le (Nat.pow_le_pow_right two_pos h))

/-- A list that fits below a place is its own part below it. -/
theorem littleEndian_mod_self {bs : List (BitVec 1)} {k : Nat} (h : bs.length ≤ k) :
    littleEndian bs % 2 ^ k = littleEndian bs :=
  Nat.mod_eq_of_lt ((littleEndian_lt bs).trans_le (Nat.pow_le_pow_right two_pos h))

/-! ## A bit or a byte placed above those already there (R62, R63) -/

/-- An or with a value placed above every bit set is a sum. -/
theorem or_shiftLeft_toNat {w v k : Nat} {x : BitVec w} (y : BitVec v) (below : x.toNat < 2 ^ k) (fits : k + v ≤ w) :
    (x ||| (y.setWidth w <<< k)).toNat = x.toNat + 2 ^ k * y.toNat := by
  have small : y.toNat < 2 ^ w := y.isLt.trans_le (Nat.pow_le_pow_right two_pos (by omega))
  have placed : 2 ^ k * y.toNat < 2 ^ w := calc
    2 ^ k * y.toNat < 2 ^ k * 2 ^ v := Nat.mul_lt_mul_of_pos_left y.isLt (Nat.two_pow_pos k)
    _ = 2 ^ (k + v) := (pow_add 2 k v).symm
    _ ≤ 2 ^ w := Nat.pow_le_pow_right two_pos fits
  rw [BitVec.toNat_or, BitVec.toNat_shiftLeft, BitVec.toNat_setWidth, Nat.mod_eq_of_lt small, Nat.shiftLeft_eq,
    mul_comm, Nat.mod_eq_of_lt placed, Nat.or_comm, ← Nat.two_pow_add_eq_or_of_lt below, Nat.add_comm]

/-- A field of `w` bits that the frame fills from bit `o` on, and the bit accepted next placed in it if it is one of the field's:
the field holds that window of the longer list (R63). -/
theorem field_extend {w o : Nat} {acc : BitVec w} {bs : List (BitVec 1)} (b : BitVec 1)
    (field : acc.toNat = littleEndian bs / 2 ^ o % 2 ^ w) :
    (if o < bs.length + 1 ∧ bs.length + 1 ≤ o + w then acc ||| (b.setWidth w <<< (bs.length + 1 - (o + 1))) else acc).toNat =
      littleEndian (bs ++ [b]) / 2 ^ o % 2 ^ w := by
  simp only [← Nat.mod_mul_right_div_self, ← pow_add] at field ⊢
  split
  next inside =>
    obtain ⟨after, before⟩ := inside
    rw [littleEndian_mod_self (by omega)] at field
    have reached : acc.toNat < 2 ^ (bs.length - o) := by
      rw [field, Nat.div_lt_iff_lt_mul (Nat.two_pow_pos o), ← pow_add, Nat.sub_add_cancel (by omega)]
      exact littleEndian_lt bs
    rw [Nat.add_sub_add_right, or_shiftLeft_toNat b reached (by omega), field, littleEndian_mod_self (by simp; omega),
      littleEndian_append_div bs b (by omega)]
  next outside =>
    rw [field]
    by_cases before : bs.length + 1 ≤ o
    · rw [littleEndian_mod_self (by omega), littleEndian_mod_self (by simp; omega), littleEndian_div_eq_zero (by omega),
        littleEndian_div_eq_zero (by simpa)]
    · rw [littleEndian_append_mod bs b (by omega)]

/-! ## A HEADER extends the list (R64) -/

section
variable {s : State} {bs : List (BitVec 1)} (b : BitVec 1) (pe : Sample) (ok : FrameBits s bs) (room : bs.length < 65535)
include ok

/-- The byte register with the new bit in holds the bits since the last complete byte, at its top (R61, R178). -/
theorem shifted_toNat : (shifted b (countBit s)).toNat =
    littleEndian (bs ++ [b]) / 2 ^ (8 * (bs.length / 8)) * 2 ^ (7 - bs.length % 8) := by
  have half : 2 ^ (8 - bs.length % 8) = 2 ^ (7 - bs.length % 8) * 2 := by rw [← pow_succ]; congr 1; omega
  have top : 2 ^ (bs.length - 8 * (bs.length / 8)) * 2 ^ (7 - bs.length % 8) = 2 ^ 7 := by rw [← pow_add]; congr 1; omega
  rw [shifted, shiftInBit_toNat, countBit_byte_acc, ok.byteAcc, half, ← mul_assoc, Nat.mul_div_cancel _ two_pos,
    littleEndian_append_div bs b (Nat.mul_div_le _ _), add_mul, mul_right_comm, top, Nat.add_comm]

/-- At a multiple of 8 the byte register with the new bit in is the completed byte (R180). -/
theorem shifted_eq_lastByte (ready : (bs.length + 1) % 8 = 0) : shifted b (countBit s) = lastByte (bs ++ [b]) := by
  have full : bs.length % 8 = 7 := by omega
  have start : 8 * (bs.length / 8) = bs.length + 1 - 8 := by omega
  have value := shifted_toNat b ok
  rw [full, start, Nat.sub_self, pow_zero, mul_one] at value
  apply BitVec.eq_of_toNat_eq
  rw [lastByte, BitVec.toNat_ofNat, List.length_append, List.length_singleton, ← value, Nat.mod_eq_of_lt (BitVec.isLt _)]

include room

/-- The counter with the bit counted is the length of the longer list (R175). -/
theorem countBit_length : (countBit s).bits_consumed.toNat = bs.length + 1 := by
  rw [countBit_toNat (by rw [ok.bits]; exact room), ok.bits]

/-- Where a byte is complete, the byte count goes up to that of the longer list (R31, R180). -/
theorem succ_bytes_eq_length_div (ready : (bs.length + 1) % 8 = 0) :
    (s.bytes_consumed + 1).toNat = (bs.length + 1) / 8 := by
  have bytes := ok.bytes
  rw [BitVec.toNat_add, show (1 : BitVec 13).toNat = 1 from rfl]
  omega

/-- Up to the fourth byte, the completed byte goes above those already there, and the word is the whole list (R62, R182). -/
theorem encInserted_toNat (ready : (bs.length + 1) % 8 = 0) (filling : bs.length + 1 ≤ 32) :
    (encInserted b (countBit s)).toNat = littleEndian (bs ++ [b]) := by
  have count := succ_bytes_eq_length_div ok room ready
  have full : bs.length % 8 = 7 := by omega
  have lane : 8 * ((bs.length + 1) / 8 - 1) = 8 * (bs.length / 8) := by omega
  have lower : s.enc_word.toNat = littleEndian bs % 2 ^ (8 * (bs.length / 8)) := by rw [ok.enc, if_pos (by omega)]
  rw [encInserted, countBit_bytes_consumed, count, if_pos (by omega), countBit_enc_word, insertByte, lane,
    or_shiftLeft_toNat _ (lower ▸ Nat.mod_lt _ (Nat.two_pow_pos _)) (by omega), shifted_toNat b ok, full, lower,
    ← littleEndian_append_mod bs b (Nat.mul_div_le _ _), Nat.sub_self, pow_zero, mul_one, Nat.mod_add_div]

theorem headerRest_bytes_of_list :
    (headerRest b pe (countBit s)).bytes_consumed.toNat = (bs.length + 1) / 8 := by
  have bytes := ok.bytes
  rw [headerRest_bytes_consumed, countBit_length ok room, countBit_bytes_consumed]
  split
  next ready => exact succ_bytes_eq_length_div ok room ready
  next => omega

theorem headerRest_byteAcc_of_list :
    (headerRest b pe (countBit s)).byte_acc.toNat =
      littleEndian (bs ++ [b]) / 2 ^ (8 * ((bs.length + 1) / 8)) * 2 ^ (8 - (bs.length + 1) % 8) := by
  rw [headerRest_byte_acc, countBit_length ok room]
  split
  next ready => rw [littleEndian_div_eq_zero (by simp; omega), zero_mul]; rfl
  next notReady =>
    rw [shifted_toNat b ok, show (bs.length + 1) / 8 = bs.length / 8 by omega,
      show 8 - (bs.length + 1) % 8 = 7 - bs.length % 8 by omega]

theorem headerRest_enc_of_list :
    (headerRest b pe (countBit s)).enc_word.toNat =
      if bs.length + 1 < 32 then littleEndian (bs ++ [b]) % 2 ^ (8 * ((bs.length + 1) / 8)) else 0 := by
  have before := ok.enc
  rw [headerRest_enc_word, countBit_length ok room, countBit_enc_word]
  obtain filling | full | done := lt_trichotomy (bs.length + 1) 32
  · rw [if_neg (by omega), if_pos filling]
    split
    next ready => rw [encInserted_toNat b ok room ready filling.le, littleEndian_mod_self (by simp; omega)]
    next notReady =>
      rw [before, if_pos (by omega), show (bs.length + 1) / 8 = bs.length / 8 by omega,
        littleEndian_append_mod bs b (Nat.mul_div_le _ _)]
  · rw [if_pos full, if_neg (by omega)]; rfl
  · rw [if_neg (by omega)] at before
    rw [if_neg done.ne', if_neg done.not_gt]
    split
    next ready =>
      have count := succ_bytes_eq_length_div ok room ready
      rw [encInserted, countBit_bytes_consumed, if_neg (by omega), countBit_enc_word, before]
    next => exact before

theorem headerRest_serial_of_list :
    (headerRest b pe (countBit s)).serial_acc.toNat = littleEndian (bs ++ [b]) / 2 ^ 32 % 2 ^ 28 := by
  rw [headerRest_serial_acc, countBit_length ok room]
  exact field_extend b ok.serial

theorem headerRest_button_of_list :
    (headerRest b pe (countBit s)).button_acc.toNat = littleEndian (bs ++ [b]) / 2 ^ 60 % 2 ^ 4 := by
  rw [headerRest_button_acc, countBit_length ok room]
  exact field_extend b ok.button

/-- The registers after a HEADER are those of the longer list. -/
theorem headerRest_frameBits : FrameBits (headerRest b pe (countBit s)) (bs ++ [b]) := by
  have length : (bs ++ [b]).length = bs.length + 1 := List.length_append
  constructor
  case bits => rw [length, headerRest_bits_consumed, countBit_length ok room]
  case bytes => rw [length, headerRest_bytes_of_list b pe ok room]
  case byteAcc => rw [length, headerRest_byteAcc_of_list b pe ok room]
  case enc => rw [length, headerRest_enc_of_list b pe ok room]
  case serial => exact headerRest_serial_of_list b pe ok room
  case button => exact headerRest_button_of_list b pe ok room

/-- The encrypted word at its portion is the number of the 32 bits (R183). -/
theorem encInserted_of_list (n32 : bs.length + 1 = 32) :
    encInserted b (countBit s) = BitVec.ofNat 32 (littleEndian (bs ++ [b])) := by
  rw [← encInserted_toNat b ok room (by omega) n32.le, BitVec.ofNat_toNat, BitVec.setWidth_eq]

/-- The serial field at its portion is the number of the 28 bits from the 33rd on (R185). -/
theorem insertSerialBit_of_list (n60 : bs.length + 1 = 60) :
    insertSerialBit s.serial_acc 60 b = BitVec.ofNat 28 (littleEndian (bs ++ [b]) / 2 ^ 32) := by
  have field := headerRest_serial_of_list b 0 ok room
  rw [headerRest_serial_acc, countBit_length ok room, n60] at field
  exact BitVec.eq_of_toNat_eq (by simpa using field)

/-- The button field at its portion is the number of the 4 bits from the 61st on (R187). -/
theorem insertButtonBit_of_list (n64 : bs.length + 1 = 64) :
    insertButtonBit s.button_acc 64 b = BitVec.ofNat 4 (littleEndian (bs ++ [b]) / 2 ^ 60) := by
  have field := headerRest_button_of_list b 0 ok room
  rw [headerRest_button_acc, countBit_length ok room, n64] at field
  exact BitVec.eq_of_toNat_eq (by simpa using field)

/-- The events of a HEADER carry the bytes and fields of the longer list (R64, R71). -/
theorem headerRest_trace_of_list :
    (headerRest b pe (countBit s)).trace = s.trace ++ headerEvents s pe b (bs ++ [b]) := by
  have length : (bs ++ [b]).length = bs.length + 1 := List.length_append
  rw [headerRest_trace, countBit_length ok room, headerEvents, length]
  by_cases n32 : bs.length + 1 = 32
  · simp [n32, encInserted_of_list b ok room n32, shifted_eq_lastByte b ok (by omega)]
  by_cases n60 : bs.length + 1 = 60
  · simp [n60, insertSerialBit_of_list b ok room n60]
  by_cases n64 : bs.length + 1 = 64
  · simp [n64, insertButtonBit_of_list b ok room n64, shifted_eq_lastByte b ok (by omega)]
  by_cases ready : (bs.length + 1) % 8 = 0
  · simp [n32, n60, n64, ready, shifted_eq_lastByte b ok ready]
  · simp [n32, n60, n64, ready]

end

/-- Settles O56: the registers and the events of the longer list. -/
theorem headerExtendsTheFrame : Obligations.HeaderExtendsTheFrame := by
  intro s bs pe ok room
  exact ⟨_, exec_header_of_room pe (by rw [ok.bits]; exact room),
    headerRest_frameBits s.periodBit pe ok room, headerRest_trace_of_list s.periodBit pe ok room⟩

end Sys2Proof.Machine
end

section
/-! The encodings (30_encoding.md R80 to R97). The decoder reads back what the encoder writes, for tokens, verdicts and event words. -/

namespace Sys2Proof

/-! ## The token words of the encoder, read back (R82 to R84) -/

@[simp] theorem tokenKind_edgeToken (level : Level) (sample : Sample) : tokenKind (edgeToken level sample) = .edge := by
  rw [edgeToken, tokenKind_mkToken]

@[simp] theorem tokenLevel_edgeToken (level : Level) (sample : Sample) : tokenLevel (edgeToken level sample) = level := by
  rw [tokenLevel, edgeToken, tokenL_mkToken, Level.ofBit_bit]

@[simp] theorem tokenPayload_edgeToken (level : Level) (sample : Sample) : tokenPayload (edgeToken level sample) = sample := by
  rw [edgeToken, tokenPayload_mkToken]

@[simp] theorem tokenKind_cfgToken (pol : Polarity) (rate : Rate) : tokenKind (cfgToken pol rate) = .cfg := by
  rw [cfgToken, tokenKind_mkToken]

@[simp] theorem tokenPolarity_cfgToken (pol : Polarity) (rate : Rate) : tokenPolarity (cfgToken pol rate) = pol := by
  rw [tokenPolarity, cfgToken, tokenL_mkToken, Polarity.ofBit_bit]

@[simp] theorem tokenPayload_cfgToken (pol : Polarity) (rate : Rate) : tokenPayload (cfgToken pol rate) = rate := by
  rw [cfgToken, tokenPayload_mkToken]

@[simp] theorem tokenKind_startToken : tokenKind startToken = .start := by
  rw [startToken, tokenKind_mkToken]

@[simp] theorem tokenKind_rsvToken (payload : BitVec 64) : tokenKind (rsvToken payload) = .reserved := by
  rw [rsvToken, tokenKind_mkToken]

/-! ## What an offered token selects, by its kind (R88) -/

/-- In a control state that consumes tokens, one of the reserved kind is RSV (R132). -/
theorem decodeToken_rsv {c : Ctl} {w : TokenWord} (a : Level)
    (live : c = .idle ∨ c = .waitSync ∨ c = .waitMid ∨ c = .waitEnd) (reserved : tokenKind w = .reserved) :
    decodeToken c a w = .rsv c.cc := by
  obtain rfl | rfl | rfl | rfl := live <;> simp only [decodeToken, reserved]

/-- In a session a CFG is ignored (R134). -/
theorem decodeToken_cfgIgnored {c : Ctl} {w : TokenWord} (a : Level) (live : c = .waitSync ∨ c = .waitMid ∨ c = .waitEnd)
    (cfg : tokenKind w = .cfg) : decodeToken c a w = .cfgIgnored c.cc (tokenPolarity w) (tokenPayload w) := by
  obtain rfl | rfl | rfl := live <;> simp only [decodeToken, cfg]

/-- In a session a START is ignored (R134). -/
theorem decodeToken_startIgnored {c : Ctl} {w : TokenWord} (a : Level) (live : c = .waitSync ∨ c = .waitMid ∨ c = .waitEnd)
    (start : tokenKind w = .start) : decodeToken c a w = .startIgnored c.cc := by
  obtain rfl | rfl | rfl := live <;> simp only [decodeToken, start]

/-- The control state `{0, cc}` carries its `cc` (R88). -/
@[simp] theorem Ctl.cc_session (cc : BitVec 2) : (Ctl.session cc).cc = cc := by
  revert cc; decide

/-- The control state `{0, cc}` consumes tokens (R88). -/
theorem Ctl.session_live (cc : BitVec 2) :
    Ctl.session cc = .idle ∨ Ctl.session cc = .waitSync ∨ Ctl.session cc = .waitMid ∨ Ctl.session cc = .waitEnd := by
  revert cc; decide

/-- A `cc` that is not 00 names a control state of a session (R88). -/
theorem Ctl.session_of_ne_zero {cc : BitVec 2} (nonzero : (cc != 0#2) = true) :
    Ctl.session cc = .waitSync ∨ Ctl.session cc = .waitMid ∨ Ctl.session cc = .waitEnd := by
  revert cc; decide

/-- In a reserved control state every token is RESERVED.CTL (R88). -/
theorem decodeToken_reservedCtl {c : Ctl} (a : Level) (w : TokenWord)
    (reserved : c = .reserved5 ∨ c = .reserved6 ∨ c = .reserved7) : decodeToken c a w = .reservedCtl c.cc w := by
  obtain rfl | rfl | rfl := reserved <;> rfl

/-- The control state `{1, cc}` carries its `cc` (R88). -/
@[simp] theorem Ctl.cc_upper (cc : BitVec 2) : (Ctl.upper cc).cc = cc := by
  revert cc; decide

/-- A `cc` that is not 00 names a reserved control state (R88). -/
theorem Ctl.upper_of_ne_zero {cc : BitVec 2} (nonzero : (cc != 0#2) = true) :
    Ctl.upper cc = .reserved5 ∨ Ctl.upper cc = .reserved6 ∨ Ctl.upper cc = .reserved7 := by
  revert cc; decide

/-! ## The event words of the encoder, read back (R90 to R93) -/

/-- A value of a channel's width passes the width check in the 32-bit value field and is read back whole (R93). -/
theorem widthCheck_of_operand {n : Nat} (fits : n ≤ 32) (v : BitVec n) (operation : BitVec n → Instr) :
    (if (v.setWidth 32).toNat < 2 ^ n then .ok (operation ((v.setWidth 32).setWidth n)) else .error .valueTooWide) =
      (.ok (operation v) : Except BadCode Instr) := by
  rw [BitVec.toNat_setWidth_of_le fits, if_pos v.isLt, BitVec.setWidth_setWidth_of_le v fits, BitVec.setWidth_eq]

/-- A 32-bit value that passed the width check loses nothing in the operand (R93). -/
theorem operand_of_widthCheck {n : Nat} {v : BitVec 32} {i j : Instr}
    (checked : (if v.toNat < 2 ^ n then .ok j else .error .valueTooWide) = (.ok i : Except BadCode Instr)) :
    (v.setWidth n).setWidth 32 = v ∧ j = i := by
  split at checked
  next narrow =>
    refine ⟨BitVec.eq_of_toNat_eq ?_, Except.ok.inj checked⟩
    rw [BitVec.toNat_setWidth, BitVec.toNat_setWidth, Nat.mod_eq_of_lt narrow, Nat.mod_eq_of_lt v.isLt]
  next => cases checked

/-- The header, span and value of an event word give the word back (R90). -/
theorem mkEventWord_of_fields {w : EventWord} {ch : Channel} {pid : BitVec 2} {v : BitVec 32}
    (header : eventReserved w = 0#3) (channel : (eventCh w).toNat = ch.code.toNat) (portion : (eventPid w).toNat = pid.toNat)
    (value : v = eventValue w) : mkEventWord ch pid (eventStart w) (eventStop w) v = w := by
  rw [value, mkEventWord, ← BitVec.eq_of_toNat_eq channel, ← BitVec.eq_of_toNat_eq portion, ← header]
  apply BitVec.eq_of_getLsbD_eq
  intro i hi
  simp only [eventCh, eventPid, eventReserved, eventStart, eventStop, eventValue, BitVec.getLsbD_append, BitVec.getLsbD_extractLsb']
  grind

/-! ### The decoder's rows (R91 to R93) -/

section
variable (a b : Sample) (v : BitVec 32)

theorem decodeEvent_bit : decodeEvent (mkEventWord .bit 0#2 a b v) =
    if v.toNat < 2 ^ 1 then .ok (.evBit a b (v.setWidth 1)) else .error .valueTooWide := by
  simp [decodeEvent, Channel.code]

theorem decodeEvent_byte : decodeEvent (mkEventWord .byte 0#2 a b v) =
    if v.toNat < 2 ^ 8 then .ok (.evByte a b (v.setWidth 8)) else .error .valueTooWide := by
  simp [decodeEvent, Channel.code]

theorem decodeEvent_enc : decodeEvent (mkEventWord .portion Portion.enc.pid a b v) = .ok (.evPortionEnc a b v) := by
  simp [decodeEvent, Channel.code, Portion.pid]

theorem decodeEvent_serial : decodeEvent (mkEventWord .portion Portion.serial.pid a b v) =
    if v.toNat < 2 ^ 28 then .ok (.evPortionSerial a b (v.setWidth 28)) else .error .valueTooWide := by
  simp [decodeEvent, Channel.code, Portion.pid]

theorem decodeEvent_button : decodeEvent (mkEventWord .portion Portion.button.pid a b v) =
    if v.toNat < 2 ^ 4 then .ok (.evPortionButton a b (v.setWidth 4)) else .error .valueTooWide := by
  simp [decodeEvent, Channel.code, Portion.pid]

theorem decodeEvent_raw : decodeEvent (mkEventWord .raw 0#2 a b v) =
    if v.toNat < 2 ^ 8 then .ok (.evRaw a b (v.setWidth 8)) else .error .valueTooWide := by
  simp [decodeEvent, Channel.code]

theorem decodeEvent_meta : decodeEvent (mkEventWord .metric 0#2 a b v) = .ok (.evMeta a b v) := by
  simp [decodeEvent, Channel.code]

end

/-- Settles O2: each row of the decoder checks the reserved bits, the channel, the portion id and the width of the value, so
the fields it read make up the whole word. -/
theorem encodeOfDecodedEvent : Obligations.EncodeOfDecodedEvent := by
  intro w i decoded
  change decodeEvent w = .ok i at decoded
  unfold decodeEvent at decoded
  split at decoded
  · cases decoded
  next header =>
  have rebuilt {ch : Channel} {pid : BitVec 2} {v : BitVec 32} := @mkEventWord_of_fields w ch pid v (not_not.1 header)
  split at decoded
  next channel pid =>
    obtain ⟨kept, rfl⟩ := operand_of_widthCheck decoded
    exact congrArg Code.event (rebuilt (ch := .bit) channel pid kept)
  next channel pid =>
    obtain ⟨kept, rfl⟩ := operand_of_widthCheck decoded
    exact congrArg Code.event (rebuilt (ch := .byte) channel pid kept)
  next channel pid =>
    obtain rfl := Except.ok.inj decoded
    exact congrArg Code.event (rebuilt (ch := .portion) (pid := Portion.enc.pid) channel pid rfl)
  next channel pid =>
    obtain ⟨kept, rfl⟩ := operand_of_widthCheck decoded
    exact congrArg Code.event (rebuilt (ch := .portion) (pid := Portion.serial.pid) channel pid kept)
  next channel pid =>
    obtain ⟨kept, rfl⟩ := operand_of_widthCheck decoded
    exact congrArg Code.event (rebuilt (ch := .portion) (pid := Portion.button.pid) channel pid kept)
  next channel pid =>
    obtain ⟨kept, rfl⟩ := operand_of_widthCheck decoded
    exact congrArg Code.event (rebuilt (ch := .raw) channel pid kept)
  next channel pid =>
    obtain rfl := Except.ok.inj decoded
    exact congrArg Code.event (rebuilt (ch := .metric) channel pid rfl)
  next => split at decoded <;> cases decoded

/-- Settles O1: the decoder reads every field of the code that the encoder wrote, row by row. -/
theorem decodeOfEncode : Obligations.DecodeOfEncode := by
  intro i wf
  cases i with
  | cfg | start | edgeDrop | edgeMid | edgeEnd => simp [encode, decode, decodeToken]
  | hold => rfl
  | edgeSkip level => simp [encode, decode, decodeToken, (Level.other_ne level).symm]
  | edgeSync => simp [encode, decode, decodeToken]
  | cfgIgnored cc => simp [encode, decode, decodeToken_cfgIgnored _ (Ctl.session_of_ne_zero wf)]
  | startIgnored cc => simp [encode, decode, decodeToken_startIgnored _ (Ctl.session_of_ne_zero wf)]
  | rsv cc => simp [encode, decode, decodeToken_rsv _ (Ctl.session_live cc)]
  | reservedCtl cc => simp [encode, decode, decodeToken_reservedCtl _ _ (Ctl.upper_of_ne_zero wf)]
  | finishExit | reject | header | frameEnd | verdictReserved => rfl
  | evBit a b v =>
    exact (decodeEvent_bit a b _).trans (widthCheck_of_operand (by decide) v (.evBit a b))
  | evByte a b v =>
    exact (decodeEvent_byte a b _).trans (widthCheck_of_operand (by decide) v (.evByte a b))
  | evPortionEnc a b v => exact decodeEvent_enc a b v
  | evPortionSerial a b v =>
    exact (decodeEvent_serial a b _).trans (widthCheck_of_operand (by decide) v (.evPortionSerial a b))
  | evPortionButton a b v =>
    exact (decodeEvent_button a b _).trans (widthCheck_of_operand (by decide) v (.evPortionButton a b))
  | evRaw a b v =>
    exact (decodeEvent_raw a b _).trans (widthCheck_of_operand (by decide) v (.evRaw a b))
  | evMeta a b v => exact decodeEvent_meta a b v

/-- A zero-extended value of a channel stays within the channel's width (R93). -/
theorem eventValue_toNat_lt {n : Nat} (fits : n ≤ 32) (ch : Channel) (pid : BitVec 2) (a b : Sample) (v : BitVec n) :
    (eventValue (mkEventWord ch pid a b (v.setWidth 32))).toNat < 2 ^ n := by
  rw [eventValue_mkEventWord, BitVec.toNat_setWidth_of_le fits]
  exact v.isLt

/-- Settles O3: the header byte of each event is its row of R91 and R92, and its value has the width of that row. -/
theorem emittedWordsAreLegal : Obligations.EmittedWordsAreLegal := by
  intro e
  refine ⟨by cases e <;> exact eventReserved_mkEventWord .., ?_⟩
  have channel := eventCh_mkEventWord
  have portion := eventPid_mkEventWord
  cases e with
  | bit a b v => exact .inl ⟨channel .., portion .., eventValue_toNat_lt (by decide) ..⟩
  | byte a b v => exact .inr (.inl ⟨channel .., portion .., eventValue_toNat_lt (by decide) ..⟩)
  | raw a b v => exact .inr (.inr (.inl ⟨channel .., portion .., eventValue_toNat_lt (by decide) ..⟩))
  | enc a b v => exact .inr (.inr (.inr (.inl ⟨channel .., portion ..⟩)))
  | serial a b v =>
    exact .inr (.inr (.inr (.inr (.inl ⟨channel .., portion .., eventValue_toNat_lt (by decide) ..⟩))))
  | button a b v =>
    exact .inr (.inr (.inr (.inr (.inr ⟨channel .., portion .., eventValue_toNat_lt (by decide) ..⟩))))

/-- Settles O5: each clause is a literal word, which the decoder evaluates. -/
theorem wordsFromTheSpecDecode : Obligations.WordsFromTheSpecDecode :=
  ⟨by decide, by decide, by decide, by decide, by decide, rfl, rfl, rfl⟩

/-! ## The operation map (R87, R88) -/

/-- Every key matches exactly one row, by evaluation of the 64 keys. -/
theorem dispatchMatches_length (key : BitVec 6) : (dispatchMatches key).length = 1 := by
  revert key; decide

/-- `m` says whether the token's level is the active one (R87). -/
theorem tokenMatches_cases (a : Level) (w : TokenWord) :
    (tokenLevel w = a ∧ tokenMatches a w = 1#1) ∨ (tokenLevel w ≠ a ∧ tokenMatches a w = 0#1) := by
  by_cases level : tokenLevel w = a
  · exact .inl ⟨level, if_pos level⟩
  · exact .inr ⟨level, if_neg level⟩

/-- The operation decoded for a token is of the row that its key matches: by the control state, by the kind, and by `m`, which
only an edge in WAIT_SYNC reads. -/
theorem decodeToken_dispatchOp (c : Ctl) (a : Level) (w : TokenWord) :
    ∃ op, dispatchMatches (dispatchKey c a w) = [op] ∧ (decodeToken c a w).dispatchOp = some op := by
  cases c with
  | waitSync =>
    cases kind : tokenKind w with
    | edge =>
      obtain ⟨level, m⟩ | ⟨level, m⟩ := tokenMatches_cases a w
      · exact ⟨.edgeSync, by rw [dispatchKey, kind, m]; rfl, by simp only [decodeToken, kind, if_pos level]; rfl⟩
      · exact ⟨.edgeSkip, by rw [dispatchKey, kind, m]; rfl, by simp only [decodeToken, kind, if_neg level]; rfl⟩
    | start | cfg | reserved =>
      simp only [decodeToken, dispatchKey, kind]
      obtain ⟨-, m⟩ | ⟨-, m⟩ := tokenMatches_cases a w <;> rw [m] <;> exact ⟨_, rfl, rfl⟩
  | idle | waitMid | waitEnd | halt | reserved5 | reserved6 | reserved7 =>
    cases kind : tokenKind w with
    | edge | start | cfg | reserved =>
      simp only [decodeToken, dispatchKey, kind]
      obtain ⟨-, m⟩ | ⟨-, m⟩ := tokenMatches_cases a w <;> rw [m] <;> exact ⟨_, rfl, rfl⟩

/-- Settles O4: the key is made of the kind field as it stands, one row matches each of the 64 keys, and the decoder agrees. -/
theorem everyKeySelectsOneOperation : Obligations.EveryKeySelectsOneOperation :=
  ⟨fun c a w => by rw [dispatchKey, tokenKind, TokenKind.code_ofCode, tokenMatches],
    fun key => List.length_eq_one_iff.1 (dispatchMatches_length key), decodeToken_dispatchOp⟩

end Sys2Proof
end

section
/-! What the decoded operations of this family do when they run: reserved tokens (R85, R132, R237), reserved operations (R88, R89,
R96) and the end edge with its period operation (R127, R171). -/

namespace Sys2Proof.Machine

/-! ## Reserved tokens (R85, R132, R237) -/

/-- Settles O13: the decoder gives RSV in the four control states, and RSV only consumes its token. -/
theorem reservedKindConsumedWithNoEffect : Obligations.ReservedKindConsumedWithNoEffect :=
  ⟨fun _ a _ live reserved => decodeToken_rsv a live reserved, fun _ _ => rfl⟩

theorem tokenRefusal_of_kind {w : TokenWord} (kind : tokenKind w = .reserved) : tokenRefusal w = some .reservedKind :=
  if_pos kind

theorem tokenRefusal_of_bits {w : TokenWord} (kind : tokenKind w ≠ .reserved) (bits : tokenReserved w ≠ 0) :
    tokenRefusal w = some .reservedHeaderBits :=
  (if_neg kind).trans (if_pos bits)

theorem tokenRefusal_of_meaning {w : TokenWord} (kind : tokenKind w ≠ .reserved) (bits : tokenReserved w = 0) :
    tokenRefusal w = none :=
  (if_neg kind).trans (if_neg (not_not.2 bits))

/-- Where the next step would consume the offered token, the strict step refuses what that token is refused for. -/
theorem refusal_of_offered {s : State} {w : TokenWord} {rest : List TokenWord} (taken : s.untaken = 0)
    (live : s.ctl = .idle ∨ s.ctl = .waitSync ∨ s.ctl = .waitMid ∨ s.ctl = .waitEnd) (offered : s.tokens = w :: rest) :
    s.refusal = tokenRefusal w := by
  have consumes : consumesTokens s.ctl = true := by
    obtain e | e | e | e := live <;> rw [e] <;> rfl
  simp [State.refusal, State.backpressured, taken, consumes, offered]

/-- A token with a meaning is never refused, whatever the state. -/
theorem refusal_eq_none {s : State} {w : TokenWord} {rest : List TokenWord} (offered : s.tokens = w :: rest)
    (meaning : tokenRefusal w = none) : s.refusal = none := by
  unfold State.refusal
  split
  · rfl
  · rw [offered]; exact meaning

/-- Settles O14: the refusal due is the offered token's, and only a token of a meaningful kind with clear header bits has none. -/
theorem strictStepRefusesReservedTokens : Obligations.StrictStepRefusesReservedTokens := by
  intro s w rest offered
  refine ⟨fun taken live => ⟨fun reserved => ?_, fun kind bits => ?_⟩, fun kind bits => ?_⟩
  · rw [stepStrict, refusal_of_offered taken live offered, tokenRefusal_of_kind reserved]
  · rw [stepStrict, refusal_of_offered taken live offered, tokenRefusal_of_bits kind bits]
  · rw [stepStrict, refusal_eq_none offered (tokenRefusal_of_meaning kind bits)]

/-! ## Reserved operations (R88, R89, R96) -/

/-- Settles O21: each row's meaning is its fault, and a token in a reserved control state decodes to RESERVED.CTL. -/
theorem reservedOperationsFault : Obligations.ReservedOperationsFault := by
  refine ⟨fun _ _ _ => rfl, fun _ _ => rfl, fun _ _ _ _ => rfl, fun s w rest taken offered reserved => ?_⟩
  rw [step_of_offered taken offered, decodeToken_reservedCtl _ _ reserved]
  rfl

/-! ## The end edge (R127, R171) -/

/-- With room in the counter, FRAME_END counts its bit and runs the rest of its commit. -/
theorem exec_frameEnd_of_room (pe : Sample) {s : State} (room : s.bits_consumed.toNat < 65535) :
    exec (.frameEnd pe) s = .next (frameEndRest s.periodBit (countBit s)) := by
  obtain ⟨full, -⟩ | ⟨-, e⟩ := accept_cases (frameEndRest s.periodBit) s
  · omega
  · simp only [exec, execFrameEnd, frameEndOp, e, Flow.state]

/-- Outside FINISHING and without an overflow, a commit runs to its end as the period operation of its verdict (R89, R171). -/
theorem commit_eq_exec_decodeVerdict {s : State} (pe : Sample) (inFrame : s.phase ≠ .finishing)
    (noOverflow : s.verdict pe = .reject ∨ s.bits_consumed.toNat < 65535) :
    ∃ t, exec (decodeVerdict (s.verdict pe).code pe) s = .next t ∧ commit pe s = .done t := by
  have entry : commitEntry s = s := if_neg inFrame
  have outcome := commit_cases pe s
  rw [entry] at outcome
  obtain ⟨verdict, e⟩ | ⟨accepted, full, -⟩ | ⟨verdict, room, e⟩ | ⟨verdict, room, e⟩ := outcome
  · exact ⟨_, by rw [verdict]; rfl, e⟩
  · exact absurd noOverflow (by simp [accepted, full])
  · exact ⟨_, by rw [verdict]; exact exec_header_of_room pe room, e⟩
  · exact ⟨_, by rw [verdict]; exact exec_frameEnd_of_room pe room, e⟩

/-- Settles O18: consuming the token writes nothing that a verdict reads. -/
theorem endEdgeCommitsItsVerdict : Obligations.EndEdgeCommitsItsVerdict := by
  refine ⟨fun a w edge => by simp only [decodeToken, edge], fun level pe s inFrame noOverflow => ?_⟩
  obtain ⟨t, ran, committed⟩ := commit_eq_exec_decodeVerdict (s := s.consume) pe inFrame noOverflow
  exact ⟨t, ran, by rw [exec, execEdgeEnd, committed, endPeriod]⟩

end Sys2Proof.Machine
end

section
/-! What the configuration and the edges before a commit do (40_edge_intake.md R121, R123 to R126, R134): which operation such a token
selects, and all that the operation writes. -/

namespace Sys2Proof

/-! ## What a CFG or an edge selects, by the control state (R88) -/

/-- In IDLE a CFG is latched (R121). -/
theorem decodeToken_idle_cfg {w : TokenWord} (a : Level) (cfg : tokenKind w = .cfg) :
    decodeToken .idle a w = .cfg (tokenPolarity w) (tokenPayload w) := by
  simp only [decodeToken, cfg]

/-- In IDLE an edge is dropped (R123). -/
theorem decodeToken_idle_edge {w : TokenWord} (a : Level) (edge : tokenKind w = .edge) :
    decodeToken .idle a w = .edgeDrop (tokenLevel w) (tokenPayload w) := by
  simp only [decodeToken, edge]

/-- In WAIT_SYNC an edge to the active level synchronizes, and any other edge is skipped (R124, R125). -/
theorem decodeToken_waitSync_edge {w : TokenWord} (a : Level) (edge : tokenKind w = .edge) :
    decodeToken .waitSync a w =
      if tokenLevel w = a then .edgeSync (tokenLevel w) (tokenPayload w) else .edgeSkip (tokenLevel w) (tokenPayload w) := by
  simp only [decodeToken, edge]

/-- In WAIT_MID an edge of either level is the mid edge (R126). -/
theorem decodeToken_waitMid_edge {w : TokenWord} (a : Level) (edge : tokenKind w = .edge) :
    decodeToken .waitMid a w = .edgeMid (tokenLevel w) (tokenPayload w) := by
  simp only [decodeToken, edge]

/-- A token word is its header byte, of kind, `L` and reserved bits 0, before its payload (R80). -/
theorem mkToken_of_header {kind : TokenKind} {l : BitVec 1} {header : BitVec 8} (byte : kind.code ++ l ++ 0#5 = header)
    (payload : BitVec 64) : mkToken kind l payload = header ++ payload := by
  rw [mkToken, byte]

end Sys2Proof

namespace Sys2Proof.Machine

/-! ## The configuration (R121, R134) -/

/-- Settles O8: the two header bytes differ in `L`, and the latch is one write of both registers after the token is consumed. -/
theorem cfgLatchesRateAndPolarity : Obligations.CfgLatchesRateAndPolarity := by
  refine ⟨fun a w cfg => decodeToken_idle_cfg a cfg, fun rate => ⟨?_, ?_⟩, fun pol rate s => rfl⟩
  · have word : cfgToken .activeHigh rate = 0x80#8 ++ rate := mkToken_of_header (by decide) rate
    rw [encode, word]
  · have word : cfgToken .activeLow rate = 0xA0#8 ++ rate := mkToken_of_header (by decide) rate
    rw [encode, word]

/-- Settles O12: in each state of a session both kinds are ignored, and either operation is `consume`. -/
theorem cfgAndStartIgnoredInSession : Obligations.CfgAndStartIgnoredInSession :=
  ⟨fun _ a _ live => ⟨decodeToken_cfgIgnored a live, decodeToken_startIgnored a live⟩, fun _ _ _ _ => ⟨rfl, rfl⟩⟩

/-! ## The edges before a commit (R123 to R126) -/

/-- Settles O11: an edge that is not waited for selects one of the two discards, and either discard is `consume`. -/
theorem droppedAndSkippedEdgesChangeNothing : Obligations.DroppedAndSkippedEdgesChangeNothing := by
  refine ⟨fun a w edge => decodeToken_idle_edge a edge, fun a w edge inactive => ?_, fun level sample s => ⟨rfl, rfl⟩⟩
  rw [decodeToken_waitSync_edge a edge, if_neg inactive]

/-- EDGE.SYNC is the shared frame reset at the edge, with the edge as the start of the first period (R125, R172, R253). -/
theorem exec_edgeSync (level : Level) (sample : Sample) (s : State) :
    exec (.edgeSync level sample) s = .next { s.consume.frameReset sample with p_start := sample, ctl := .waitMid } := rfl

/-- Settles O16: an edge to the active level synchronizes, and its effect is a frame reset at its sample. -/
theorem syncEdgeStartsFirstPeriod : Obligations.SyncEdgeStartsFirstPeriod := by
  refine ⟨fun a w edge active => ?_, fun level sample s => ?_⟩
  · rw [decodeToken_waitSync_edge a edge, if_pos active, active]
  · rw [exec_edgeSync, State.frameReset, State.consume]

/-- Settles O17: the decoder takes an edge of either level, and the operation stores its sample as it is. -/
theorem midEdgeIsCaptured : Obligations.MidEdgeIsCaptured :=
  ⟨fun a _ edge => decodeToken_waitMid_edge a edge, fun _ _ _ => rfl⟩

end Sys2Proof.Machine
end

section
/-! The classifier (41_classifier.md R141 to R152): its tests on a well-formed period as the spec writes them, in natural numbers, and
what follows for its verdicts and for the bit. -/

namespace Sys2Proof.Machine

/-! ## The tests in natural numbers (R141, R142, R144, R145, R148) -/

theorem malformed_iff (ps pm pe : Nat) : malformed ps pm pe = true ↔ ¬(ps < pm ∧ pm < pe) := by
  rw [← malformed_eq_false_iff, Bool.not_eq_false]

/-- The window of R144 for a period that does not end before it starts, where its length is no truncated difference. -/
theorem inHeaderRange_exact_iff_of_le {ps pe : Nat} (order : ps ≤ pe) (rate : Nat) :
    inHeaderRange .exact ps pe rate = true ↔ 1000 * (pe - ps) ≥ rate ∧ 2500 * (pe - ps) ≤ 3 * rate := by
  rw [inHeaderRange_exact_iff]
  omega

/-- The condition of R145 for a duty that does not end before it starts. -/
theorem isFrameEnd_exact_iff_of_le {ps pm : Nat} (order : ps ≤ pm) (rate n : Nat) (ph : Phase) :
    isFrameEnd .exact ps pm rate n ph = true ↔ n > 64 ∧ 10000 * (pm - ps) < 9 * rate ∧ ph = .reading := by
  have duty : 10000 * ((pm : Int) - ps) < 9 * rate ↔ 10000 * (pm - ps) < 9 * rate := by omega
  rw [isFrameEnd_exact_iff, duty]

/-- The threshold of R148 in the exact form of R142. -/
theorem bit0Duty_exact_iff (ps pm rate : Nat) :
    timeGe .exact (dutyLength ps pm) rate Config.T_BIT0_DUTY = true ↔ 5000 * ((pm : Int) - ps) ≥ 3 * rate := by
  simp only [timeGe_exact_iff, dutyLength, sampleDiff, Config.T_BIT0_DUTY]
  push_cast
  omega

/-! ## The verdict (R141, R144, R147) -/

/-- Settles O22: the first test decides. -/
theorem malformedPeriodIsReject : Obligations.MalformedPeriodIsReject :=
  fun _ _ _ _ _ _ bad => if_pos ((malformed_iff _ _ _).2 bad)

/-- The second and third tests of R147, which a well-formed period comes to. -/
theorem classify_of_wellFormed {ps pm pe : Sample} (wf : ps.toNat < pm.toNat ∧ pm.toNat < pe.toNat) (r : Rate) (n : BitVec 16)
    (ph : Phase) :
    classify ps pm pe r n ph =
      if 1000 * (pe.toNat - ps.toNat) ≥ r.toNat ∧ 2500 * (pe.toNat - ps.toNat) ≤ 3 * r.toNat then .header
      else if n.toNat > 64 ∧ 10000 * (pm.toNat - ps.toNat) < 9 * r.toNat ∧ ph = .reading then .frameEnd
      else .reject := by
  have good : ¬malformed ps.toNat pm.toNat pe.toNat = true := fun bad => (malformed_iff _ _ _).1 bad wf
  have header := inHeaderRange_exact_iff_of_le (wf.1.trans wf.2).le r.toNat
  have frameEnd := isFrameEnd_exact_iff_of_le wf.1.le r.toNat n.toNat ph
  exact (if_neg good).trans (if_congr header rfl (if_congr frameEnd rfl rfl))

/-- Settles O24: a malformed period stops at the first test, a well-formed one goes on to the other two. -/
theorem classifyInFull : Obligations.ClassifyInFull := by
  intro ps pm pe r n ph
  by_cases wf : ps.toNat < pm.toNat ∧ pm.toNat < pe.toNat
  · rw [if_neg (not_not.2 wf), classify_of_wellFormed wf]
  · rw [if_pos wf, malformedPeriodIsReject ps pm pe r n ph wf]

/-- Settles O23: of the four results of `Classify` in full, only the second, where both tests hold, is HEADER. -/
theorem headerIffInWindow : Obligations.HeaderIffInWindow := by
  intro ps pm pe r n ph
  rw [classifyInFull]
  split_ifs with wf window ends
  · exact iff_of_true rfl ⟨wf, window⟩
  · exact iff_of_false nofun fun inWindow => window inWindow.2
  · exact iff_of_false nofun fun inWindow => window inWindow.2
  · exact iff_of_false nofun fun inWindow => wf inWindow.1

/-! ## Consequences (R148, R150, R152) -/

/-- Settles O25: the threshold test of the bit is R148's comparison. -/
theorem bitValueThreshold : Obligations.BitValueThreshold :=
  fun ps pm r => if_congr (bit0Duty_exact_iff ps.toNat pm.toNat r.toNat) rfl rfl

/-- Settles O26: a well-formed period is longer than the one sample that the window admits, and its duty is not the 0 samples that
FRAME_END needs. -/
theorem nothingAcceptedAtOneKilohertz : Obligations.NothingAcceptedAtOneKilohertz := by
  intro ps pm pe n ph
  by_cases wf : ps.toNat < pm.toNat ∧ pm.toNat < pe.toNat
  · have rate : (1000#64).toNat = 1000 := rfl
    have length : 2 ≤ pe.toNat - ps.toNat := by omega
    have duty : 1 ≤ pm.toNat - ps.toNat := by omega
    rw [classify_of_wellFormed wf, rate, if_neg (by omega), if_neg (by omega)]
  · exact malformedPeriodIsReject ps pm pe _ n ph wf

/-- A well-formed period in READING that is no HEADER is FRAME_END if more than 64 bits came before and its duty is below 0.0009 s
(R145). -/
theorem classify_frameEnd_of_not_header {ps pm pe : Sample} {r : Rate} {n : BitVec 16}
    (wf : ps.toNat < pm.toNat ∧ pm.toNat < pe.toNat) (notHeader : classify ps pm pe r n .reading ≠ .header)
    (bits : 64 < n.toNat) (duty : 10000 * ((pm.toNat : Int) - ps.toNat) < 9 * r.toNat) :
    classify ps pm pe r n .reading = .frameEnd := by
  rw [classify_of_wellFormed wf] at notHeader ⊢
  split_ifs at notHeader ⊢ with window ends
  · exact absurd rfl notHeader
  · rfl
  · exact absurd ⟨bits, by omega, rfl⟩ ends

/-- Settles O27: the frame invariant makes a frame with bits that has not ended READING. -/
theorem readingTestNeverDecides : Obligations.ReadingTestNeverDecides := by
  intro s pe n ok inFrame bits
  have reading : s.phase = .reading := ok.reading_of_bits inFrame (by omega)
  refine ⟨reading, fun good count notHeader duty => ?_⟩
  subst count
  rw [reading] at notHeader ⊢
  exact classify_frameEnd_of_not_header ((malformed_eq_false_iff _ _ _).1 good) notHeader bits duty

end Sys2Proof.Machine
end

section
/-! The tally of a frame's events (42_assembler.md R172, R190): every frame reset begins an empty one, every HEADER keeps it, and a
FRAME_END at bit 66 completes it. -/

namespace Sys2Proof.Machine

/-! ## Tallies of a growing trace (R190) -/

@[simp] theorem tally_append (k : EventKind) (tr evs : List Event) : tally k (tr ++ evs) = tally k tr + tally k evs :=
  List.countP_append

@[simp] theorem tally_nil (k : EventKind) : tally k [] = 0 := rfl

@[simp] theorem tally_cons (k : EventKind) (e : Event) (tr : List Event) :
    tally k (e :: tr) = tally k tr + if e.kind = k then 1 else 0 := by
  simp [tally, List.countP_cons]

/-- What a frame appends to its trace adds to its tally. -/
theorem tally_drop_append {from_ : Nat} {tr : List Event} (begun : from_ ≤ tr.length) (k : EventKind) (evs : List Event) :
    tally k ((tr ++ evs).drop from_) = tally k (tr.drop from_) + tally k evs := by
  rw [List.drop_append_of_le_length begun, tally_append]

/-- A frame keeps its tally if each kind of event it appends makes up for the bits it counts. -/
theorem FrameTally.extend {s t : State} {from_ : Nat} {evs : List Event} (ok : FrameTally s from_)
    (trace : t.trace = s.trace ++ evs)
    (added : ∀ k, frameTally s.bits_consumed.toNat k + tally k evs = frameTally t.bits_consumed.toNat k) :
    FrameTally t from_ := by
  obtain ⟨begun, counts⟩ := ok
  refine ⟨by rw [trace, List.length_append]; omega, fun k => ?_⟩
  rw [trace, tally_drop_append begun, counts, added]

/-! ## The frame resets (R172, R254) -/

/-- A frame with no bits has no events to have emitted. -/
theorem frameTally_zero (k : EventKind) : frameTally 0 k = 0 := by
  cases k with
  | bit | byte | raw => rfl
  | portion p => cases p <;> rfl

/-- A frame that begins at the end of the trace has the tally of no bits. -/
theorem frameTally_at_end {t : State} (empty : t.bits_consumed = 0) : FrameTally t t.trace.length := by
  refine ⟨le_rfl, fun k => ?_⟩
  rw [List.drop_length, tally_nil, empty]
  exact (frameTally_zero k).symm

/-- Whatever has the decoder registers of a frame reset, and the trace from before it, begins a frame with no bits. -/
theorem emptyFrame_of_frameReset {s t : State} (cur : Sample) (same : SameDecoder (s.frameReset cur) t)
    (trace : t.trace = s.trace) : FrameBits t [] ∧ t.trace = s.trace ∧ FrameTally t s.trace.length := by
  obtain ⟨-, bits, bytes, acc, enc, serial, button, -⟩ := same
  refine ⟨?_, trace, ?_⟩
  · constructor <;> simp [bits, bytes, acc, enc, serial, button, littleEndian]
  · rw [← trace]
    exact frameTally_at_end bits

/-- START with a rate makes a frame reset at sample 0 and begins the session (R122). -/
theorem exec_start_of_rate {s : State} (rate : s.cfg_rate ≠ 0) :
    exec .start s = .next { s.consume.frameReset 0 with ctl := .waitSync } := if_neg rate

theorem exec_reject (pe : Sample) (s : State) : exec (.reject pe) s = .next (s.frameReset pe) := rfl

theorem exec_finishExit (s : State) : exec .finishExit s = .next (s.frameReset s.p_start) := rfl

/-- Settles O57: each of the four is the shared frame reset, at its own sample, with no decoder register written after it. -/
theorem frameResetBeginsEmptyFrame : Obligations.FrameResetBeginsEmptyFrame := by
  intro s t level sample h
  obtain ⟨rate, h⟩ | h | h | h := h
  · rw [exec_start_of_rate rate] at h
    cases h
    exact emptyFrame_of_frameReset 0 (by simp [SameDecoder]) rfl
  · rw [exec_edgeSync] at h
    cases h
    exact emptyFrame_of_frameReset sample (by simp [SameDecoder]) rfl
  · rw [exec_reject] at h
    cases h
    exact emptyFrame_of_frameReset sample (by simp [SameDecoder]) rfl
  · rw [exec_finishExit] at h
    cases h
    exact emptyFrame_of_frameReset s.p_start (by simp [SameDecoder]) rfl

/-- Settles O28: the operation is the shared frame reset, written out. -/
theorem rejectResetsTheFrame : Obligations.RejectResetsTheFrame := by
  intro pe s
  rw [exec_reject, State.frameReset]

/-! ## A HEADER (R190 items 1 and 2) -/

/-- A portion is due at its own bit (R183, R185, R187). -/
theorem frameTally_succ_portion (n : Nat) (p : Portion) :
    frameTally (n + 1) (.portion p) = frameTally n (.portion p) + if n + 1 = portionBit p then 1 else 0 := by
  simp only [frameTally]
  split_ifs <;> omega

/-- The events of a HEADER are what the tally of `n + 1` bits has over that of `n`: a bit, a byte and a raw byte where `n + 1` is a
multiple of 8, and the portion that is complete at `n + 1`. -/
theorem headerRest_tally {s : State} (b : BitVec 1) (pe : Sample) (room : s.bits_consumed.toNat < 65535) :
    ∃ evs, (headerRest b pe (countBit s)).trace = s.trace ++ evs ∧
      ∀ k, frameTally s.bits_consumed.toNat k + tally k evs = frameTally (s.bits_consumed.toNat + 1) k := by
  rw [headerRest_trace, countBit_toNat room]
  simp only [List.append_assoc]
  refine ⟨_, rfl, fun k => ?_⟩
  simp only [tally_append, apply_ite (tally k), tally_cons, tally_nil, Event.kind]
  cases k with
  | bit => simp [frameTally]
  | byte | raw => simp [frameTally, Nat.succ_div, Nat.dvd_iff_mod_eq_zero]
  | portion p => cases p <;> simp [frameTally_succ_portion, portionBit]

/-- Settles O58: the tally goes up with the count. -/
theorem headerKeepsTally : Obligations.HeaderKeepsTally := by
  intro s from_ pe ok room
  obtain ⟨evs, trace, added⟩ := headerRest_tally s.periodBit pe room
  refine ⟨_, exec_header_of_room pe room, ok.extend trace fun k => ?_⟩
  rw [headerRest_bits_consumed, countBit_toNat room, added]

/-! ## A FRAME_END (R190 item 3) -/

/-- After a FRAME_END's count, only the phase, the byte register and the bit channel are written (R177 to R179). -/
theorem frameEndRest_eq (b : BitVec 1) (u : State) :
    frameEndRest b u = { u with
      phase := .finishing
      byte_acc := shiftInBit u.byte_acc b
      trace := u.trace ++ [.bit u.bit_position (u.bit_position + u.last_period_length) b]
      untaken := if u.sinkReady then u.untaken else u.untaken + 1 } := rfl

/-- By 65 bits every portion is due (R183, R185, R187). -/
theorem frameTally_sixtyFive_portion (p : Portion) : frameTally 65 (.portion p) = 1 := by cases p <;> rfl

/-- Settles O59: the FRAME_END adds one bit event to the tally of 65 bits, which has every other event already. -/
theorem completeFrameTally : Obligations.CompleteFrameTally := by
  intro s from_ pe ok bits
  obtain ⟨begun, counts⟩ := ok
  have room : s.bits_consumed.toNat < 65535 := by omega
  refine ⟨_, exec_frameEnd_of_room pe room, ?_⟩
  have count : (frameEndRest s.periodBit (countBit s)).bits_consumed.toNat = 66 := by
    rw [frameEndRest_eq, countBit_toNat room, bits]
  have total (k : EventKind) : tally k ((frameEndRest s.periodBit (countBit s)).trace.drop from_) =
      frameTally 65 k + if EventKind.bit = k then 1 else 0 := by
    rw [frameEndRest_eq, countBit_trace, tally_drop_append begun, counts, bits, tally_cons, tally_nil, Nat.zero_add, Event.kind]
  refine ⟨count, total .bit, total .byte, total .raw, fun p => ?_⟩
  rw [total, frameTally_sixtyFive_portion, if_neg nofun]

end Sys2Proof.Machine
end

section
/-! The period operations (42_assembler.md R173 to R188): the registers that an accepted period leaves, the overflow, and the reset
that follows a FRAME_END. -/

namespace Sys2Proof.Machine

/-! ## The bit layer of a HEADER (R175, R176) -/

/-- The first event of a HEADER is its bit (R71, R176). -/
theorem headerRest_first_event (b : BitVec 1) (pe : Sample) (u : State) :
    (headerRest b pe u).trace[u.trace.length]? = some (.bit u.bit_position pe b) := by
  simp [headerRest_trace]

/-- Settles O29: the bit layer field by field, and the fields that no part of a HEADER writes. -/
theorem headerBitLayerAndFrame : Obligations.HeaderBitLayerAndFrame := by
  intro pe s room
  refine ⟨_, exec_header_of_room pe room, ?_, headerRest_first_event s.periodBit pe (countBit s),
    headerRest_bit_position _ _ _, headerRest_last_period_length _ _ _, headerRest_phase _ _ _, headerRest_frame _ _ _⟩
  rw [headerRest_bits_consumed, countBit_toNat room]

/-! ## The byte layer of a HEADER (R178 to R183) -/

/-- The completed byte goes in its lane up to the fourth (R182), and the fourth is the last before the word is cleared (R183). -/
theorem headerRest_enc_word_of_count {s : State} (b : BitVec 1) (pe : Sample) (room : s.bits_consumed.toNat < 65535) :
    (headerRest b pe (countBit s)).enc_word =
      if s.bits_consumed.toNat + 1 = 32 then 0
      else if (s.bits_consumed.toNat + 1) % 8 = 0 ∧ (s.bytes_consumed + 1).toNat ≤ 4 then
        insertByte s.enc_word (s.bytes_consumed + 1).toNat (shiftInBit s.byte_acc b)
      else s.enc_word := by
  rw [headerRest_enc_word, countBit_toNat room, ite_and]
  rfl

/-- Settles O30: the registers of the byte layer at the counted bit. -/
theorem headerByteLayer : Obligations.HeaderByteLayer := by
  intro pe s room
  refine ⟨_, exec_header_of_room pe room, ?_, ?_, ?_, headerRest_enc_word_of_count s.periodBit pe room⟩
  · rw [headerRest_byte_acc, countBit_toNat room]; rfl
  · rw [headerRest_byte_position, countBit_toNat room]; rfl
  · rw [headerRest_bytes_consumed, countBit_toNat room]; rfl

/-! ## The portion layer of a HEADER (R183 to R187) -/

/-- Settles O31: the registers of the portion layer at the counted bit. -/
theorem headerPortionLayer : Obligations.HeaderPortionLayer := by
  intro pe s room
  refine ⟨_, exec_header_of_room pe room, ?_, ?_, ?_⟩
  · rw [headerRest_serial_acc, countBit_toNat room]; rfl
  · rw [headerRest_button_acc, countBit_toNat room]; rfl
  · rw [headerRest_portion_position, countBit_toNat room]; rfl

/-! ## FRAME_END (R177 to R179) -/

/-- Settles O33: the count, then the three writes of the rest of the commit. -/
theorem frameEndEmitsOnlyItsBit : Obligations.FrameEndEmitsOnlyItsBit := by
  intro pe s room
  refine ⟨if s.sinkReady then s.untaken else s.untaken + 1, ?_⟩
  rw [exec_frameEnd_of_room pe room, frameEndRest_eq]
  rfl

/-! ## The overflow (R175, R224) -/

/-- With a full counter, an accepted period raises COUNT_OVERFLOW in place of the rest of its commit. -/
theorem accept_of_full (rest : State → State) {s : State} (full : s.bits_consumed.toNat = 65535) :
    accept rest s = .raised (s.raiseFault .countOverflow) := if_pos ((countFull_iff _).2 full)

/-- Settles O34: both operations are accepted periods, and differ only in the rest of the commit that does not run. -/
theorem acceptedPeriodWithFullCounter : Obligations.AcceptedPeriodWithFullCounter := by
  intro pe s full
  constructor
  · rw [exec, execHeader, headerOp, accept_of_full _ full]; rfl
  · rw [exec, execFrameEnd, frameEndOp, accept_of_full _ full]; rfl

/-! ## The commit after a FRAME_END (R173) -/

/-- The state a commit classifies in needs no further FinishExit (R173). -/
theorem commitEntry_idem (s : State) : commitEntry (commitEntry s) = commitEntry s :=
  if_neg (commitEntry_phase_ne_finishing s)

/-- A commit makes its FinishExit, if it needs one, before all that it reads (R173). -/
theorem commit_commitEntry (pe : Sample) (s : State) : commit pe (commitEntry s) = commit pe s := by
  rw [commit, commitEntry_idem, commit]

/-- Settles O19: consuming the token and resetting the frame write different fields, so either may come first. -/
theorem commitAfterFrameEndResetsFirst : Obligations.CommitAfterFrameEndResetsFirst := by
  intro level pe s t
  refine ⟨exec_finishExit s, fun finishing => ?_⟩
  have resetFirst : commitEntry s.consume = t.consume := if_pos finishing
  rw [exec, execEdgeEnd, exec, execEdgeEnd, ← commit_commitEntry pe s.consume, resetFirst]

end Sys2Proof.Machine
end

section
/-! The faults (60_exceptions.md R222 to R224): what raising one writes, in this hardware and in the parametric block, what it leaves,
and HALT. -/

namespace Sys2Proof.Machine

/-! ## Raising a fault (R94, R220) -/

/-- The status port after a fault: HALT, the phase the fault was raised in, and its code (R94, R221). -/
theorem raiseFault_status (f : Err) (s : State) : (s.raiseFault f).status = Ctl.halt.code ++ s.phase.code ++ f.code := rfl

/-- START without a rate raises CONFIG_ERROR in place of the frame reset (R222). -/
theorem exec_start_of_no_rate {s : State} (noRate : s.cfg_rate = 0) :
    exec .start s = .next (s.consume.raiseFault .configError) := if_pos noRate

/-- Settles O10: consuming the token and raising the fault are the only writes, and power-on has no rate. -/
theorem startWithoutRateRaisesConfigError : Obligations.StartWithoutRateRaisesConfigError :=
  ⟨fun _ noRate => exec_start_of_no_rate noRate, _, exec_start_of_no_rate rfl, raiseFault_status .configError State.reset.consume⟩

/-- Settles O49: only START and an end edge raise a fault, each where its condition holds. -/
theorem stepKeepsFaultOk : Obligations.StepKeepsFaultOk :=
  fun _ _ control frame ok h => step_faultOk control frame ok h

/-! ## HALT (R123, R223) -/

/-- In HALT a step changes nothing, whether it waits or holds the offered token. -/
theorem step_of_halt {s : State} (halt : s.ctl = .halt) : step s = .next s := by
  obtain ⟨-, waiting⟩ | ⟨w, rest, taken, offered, -⟩ := fetch_cases s
  · exact step_of_waiting waiting
  · rw [step_of_offered taken offered, halt]
    rfl

/-- Settles O15: HALT selects HOLD for every token, and of the states without a token only HALT is no normal end. -/
theorem haltIsStuckUntilHardwareReset : Obligations.HaltIsStuckUntilHardwareReset :=
  ⟨fun _ _ => rfl, fun _ _ => rfl, fun s halt => ⟨step_of_halt halt, if_pos halt, hardwareReset_ctl s⟩,
    fun _ notHalt empty => ⟨step_of_waiting (.inr empty), (if_neg notHalt).trans (if_pos empty)⟩⟩

/-! ## The counter overflow of this hardware (R175, R224) -/

/-- Outside FINISHING and with a full counter, every verdict but REJECT raises COUNT_OVERFLOW. -/
theorem commit_of_full {s : State} {pe : Sample} (inFrame : s.phase ≠ .finishing) (full : s.bits_consumed.toNat = 65535)
    (accepted : s.verdict pe ≠ .reject) : commit pe s = .raised (s.raiseFault .countOverflow) := by
  have entry : commitEntry s = s := if_neg inFrame
  have outcome := commit_cases pe s
  rw [entry] at outcome
  obtain ⟨rejected, -⟩ | ⟨-, -, raised⟩ | ⟨-, room, -⟩ | ⟨-, room, -⟩ := outcome
  · exact absurd rejected accepted
  · exact raised
  · omega
  · omega

/-- An end edge whose commit overflows consumes its token and raises the fault; it begins no period (R127, R224). -/
theorem exec_edgeEnd_of_full {s : State} {pe : Sample} (level : Level) (inFrame : s.phase ≠ .finishing)
    (full : s.bits_consumed.toNat = 65535) (accepted : s.verdict pe ≠ .reject) :
    exec (.edgeEnd level pe) s = .next (s.consume.raiseFault .countOverflow) := by
  have raised : commit pe s.consume = .raised (s.consume.raiseFault .countOverflow) := commit_of_full inFrame full accepted
  rw [exec, execEdgeEnd, raised, endPeriod]

/-! ## The counter overflow of the parametric block (R9, R175, R224) -/

/-- Everything the parametric commit can do in the state it classifies in, by the verdict and the counter (R191). -/
theorem paramClassified_cases (p : Params) (pe : Nat) (s : ParamState) :
    let verdict := classifyWith p.THRESHOLD_ARITH s.p_start s.p_mid pe s.cfg_rate s.bits_consumed s.phase
    let b := bitValueWith p.THRESHOLD_ARITH s.p_start s.p_mid s.cfg_rate
    (verdict = .reject ∧ paramClassified p pe s = .done (s.frameReset pe)) ∨
    (verdict ≠ .reject ∧ Width.isFull p.BITS_W s.bits_consumed = true ∧
      paramClassified p pe s = .raised (s.raiseFault .countOverflow)) ∨
    (verdict = .header ∧ Width.isFull p.BITS_W s.bits_consumed = false ∧
      paramClassified p pe s = .done (paramHeader p b pe (s.bits_consumed + 1) s)) ∨
    (verdict = .frameEnd ∧ Width.isFull p.BITS_W s.bits_consumed = false ∧
      paramClassified p pe s = .done (paramFrameEnd p b (s.bits_consumed + 1) s)) := by
  intro verdict b
  unfold paramClassified
  cases hv : verdict with
  | reject => simp [verdict, hv]
  | header | frameEnd => cases Width.isFull p.BITS_W s.bits_consumed <;> simp [verdict, b, hv]

/-- Outside FINISHING, an end edge at the last value of a finite counter raises COUNT_OVERFLOW on every verdict but REJECT. -/
theorem paramEdgeEnd_of_full {p : Params} {w pe : Nat} {s : ParamState} (finite : p.BITS_W = .bits w)
    (inFrame : s.phase ≠ .finishing) (last : s.bits_consumed = 2 ^ w - 1)
    (accepted : classifyWith p.THRESHOLD_ARITH s.p_start s.p_mid pe s.cfg_rate s.bits_consumed s.phase ≠ .reject) :
    paramEdgeEnd p pe s = s.raiseFault .countOverflow := by
  have full : Width.isFull p.BITS_W s.bits_consumed = true := by rw [finite, last]; exact beq_self_eq_true _
  obtain ⟨rejected, -⟩ | ⟨-, -, raised⟩ | ⟨-, room, -⟩ | ⟨-, room, -⟩ := paramClassified_cases p pe s
  · exact absurd rejected accepted
  · rw [paramEdgeEnd, paramCommit, if_neg inFrame, raised]
  · exact absurd (full.symm.trans room) nofun
  · exact absurd (full.symm.trans room) nofun

/-- A counter without a width is never full, so the commit of an end edge runs to its end, and no part of it writes `err`. -/
theorem paramEdgeEnd_err_of_inf {p : Params} (unbounded : p.BITS_W = .inf) (pe : Nat) (s : ParamState) :
    (paramEdgeEnd p pe s).err = s.err := by
  have entry : (if s.phase = .finishing then s.frameReset s.p_start else s).err = s.err := by split <;> rfl
  rw [paramEdgeEnd, paramCommit, ← entry]
  generalize (if s.phase = .finishing then s.frameReset s.p_start else s) = e
  obtain ⟨-, done⟩ | ⟨-, full, -⟩ | ⟨-, -, done⟩ | ⟨-, -, done⟩ := paramClassified_cases p pe e
  · rw [done]; rfl
  · rw [unbounded] at full; exact nomatch full
  · rw [done]; rfl
  · rw [done]; rfl

/-- A token of the parametric block leaves `err`, raises CONFIG_ERROR, or ends a period (R88). -/
theorem paramToken_err_cases {p : Params} {tok : ParamToken} {s t : ParamState} (h : paramToken p tok s = .next t) :
    t.err = s.err ∨ t.err = .configError ∨ ∃ pe, t = paramEdgeEnd p pe s.consume := by
  cases hc : s.ctl with
  | idle =>
    cases hk : tok.kind with
    | start =>
      simp only [paramToken, hc, hk] at h
      split at h <;> cases h
      · exact .inr (.inl rfl)
      · exact .inl rfl
    | edge | cfg | reserved =>
      simp only [paramToken, hc, hk] at h
      cases h
      exact .inl rfl
  | waitSync =>
    cases hk : tok.kind with
    | edge =>
      simp only [paramToken, hc, hk] at h
      split at h <;> cases h <;> exact .inl rfl
    | start | cfg | reserved =>
      simp only [paramToken, hc, hk] at h
      cases h
      exact .inl rfl
  | waitMid =>
    cases hk : tok.kind <;> simp only [paramToken, hc, hk] at h <;> cases h <;> exact .inl rfl
  | waitEnd =>
    cases hk : tok.kind with
    | edge =>
      simp only [paramToken, hc, hk] at h
      exact .inr (.inr ⟨_, (Host.Outcome.next.inj h).symm⟩)
    | start | cfg | reserved =>
      simp only [paramToken, hc, hk] at h
      cases h
      exact .inl rfl
  | halt =>
    simp only [paramToken, hc] at h
    cases h
    exact .inl rfl
  | reserved5 | reserved6 | reserved7 =>
    simp only [paramToken, hc] at h
    exact nomatch h

/-- Everything a step of the parametric block can do: wait, or run the offered token (R15, R77, R133). -/
theorem paramStep_cases {p : Params} {s t : ParamState} (h : paramStep p s = .next t) :
    t = s ∨ ∃ tok, paramToken p tok s = .next t := by
  unfold paramStep at h
  split at h
  · exact .inl (Host.Outcome.next.inj h).symm
  · split at h
    · exact .inl (Host.Outcome.next.inj h).symm
    · exact .inr ⟨_, h⟩

/-- With BITS_W = inf the one fault a step can raise is CONFIG_ERROR (R9, R222, R224). -/
theorem paramStep_err_of_inf {p : Params} {s t : ParamState} (unbounded : p.BITS_W = .inf) (h : paramStep p s = .next t) :
    t.err = s.err ∨ t.err = .configError := by
  obtain rfl | ⟨tok, h⟩ := paramStep_cases h
  · exact .inl rfl
  · obtain kept | config | ⟨pe, rfl⟩ := paramToken_err_cases h
    · exact .inl kept
    · exact .inr config
    · exact .inl (paramEdgeEnd_err_of_inf unbounded pe s.consume)

/-- Settles O20: the overflow of this hardware, that of a counter of any finite width, and a counter without a width. -/
theorem fullCounterRaisesOverflow : Obligations.FullCounterRaisesOverflow := by
  refine ⟨fun level pe s inFrame full accepted => ⟨exec_edgeEnd_of_full level inFrame full accepted, fun reading => ?_⟩,
    fun p w pe s finite inFrame last accepted => paramEdgeEnd_of_full finite inFrame last accepted,
    fun p s t unbounded h overflow => ?_⟩
  · have status := raiseFault_status .countOverflow s.consume
    rw [consume_phase, reading] at status
    exact status
  · obtain kept | config := paramStep_err_of_inf unbounded h
    · exact kept.symm.trans overflow
    · exact absurd (config.symm.trans overflow) nofun

end Sys2Proof.Machine
end

section
/-! Reset and the frame's bits (70_reset_and_hazards.md R250, R252, R254): the values of the hardware reset, the frame reset of START,
and that no step but a frame reset takes a bit away. -/

namespace Sys2Proof

/-- In IDLE a START begins a session (R122). -/
theorem decodeToken_idle_start {w : TokenWord} (a : Level) (start : tokenKind w = .start) : decodeToken .idle a w = .start := by
  simp only [decodeToken, start]

end Sys2Proof

namespace Sys2Proof.Machine

/-! ## The triggers of a frame reset (R254) -/

/-- Settles O42: of the effects of a step only the frame resets lower the count. At an end edge outside FINISHING the commit
classifies in the state before the edge, where an accepted period adds its bit or, with a full counter, keeps the count. -/
theorem frameResetTriggers : Obligations.FrameResetTriggers := by
  intro s t h fewer
  obtain rfl | ⟨-, rfl⟩ | ⟨-, pol, rate, rfl⟩ | ⟨-, -, rfl⟩ | ⟨idle, -, rfl⟩ | ⟨sync, p, rfl⟩ | ⟨-, p, rfl⟩ |
    ⟨ended, pe, e, entry, outcome⟩ := step_full_cases h
  · exact absurd fewer (lt_irrefl _)
  · exact absurd fewer (lt_irrefl _)
  · exact absurd fewer (lt_irrefl _)
  · exact absurd fewer (lt_irrefl _)
  · exact .inl ⟨idle, rfl⟩
  · exact .inr (.inl ⟨sync, rfl⟩)
  · exact absurd fewer (lt_irrefl _)
  refine .inr (.inr ⟨ended, ?_⟩)
  obtain ⟨fin, -⟩ | ⟨-, rfl⟩ := entry
  · exact .inl fin
  obtain ⟨rejected, rfl⟩ | ⟨-, -, rfl⟩ | ⟨room, -, rfl⟩ | ⟨room, -, rfl⟩ := outcome
  · exact .inr rejected
  · exact absurd fewer (lt_irrefl _)
  · rw [headerRest_bits_consumed, countBit_toNat room] at fewer
    exact absurd fewer Nat.not_succ_lt_self
  · exact absurd ((countBit_toNat room).symm.trans_lt fewer) Nat.not_succ_lt_self

/-! ## START (R252) -/

/-- Settles O9: START's word has no payload, and its effect is a frame reset at sample 0. -/
theorem startWithRateBeginsSession : Obligations.StartWithRateBeginsSession := by
  refine ⟨fun a w start => decodeToken_idle_start a start, ?_, fun s rate => ?_⟩
  · have word : startToken = 0x40#8 ++ 0#64 := mkToken_of_header (by decide) 0#64
    rw [encode, word]
    rfl
  · rw [exec_start_of_rate rate, State.frameReset, State.consume]

/-! ## The hardware reset (R47, R250) -/

/-- A hardware reset leaves the power-on state, but for what is the host's: its offered tokens and its sink. -/
theorem pulseReset_eq_reset (s : State) :
    s.hostAct .pulseReset = { State.reset with tokens := s.tokens, sinkReady := s.sinkReady } := rfl

theorem reset_status : State.reset.status = 0#7 := by decide

/-- Settles O44: power-on and a hardware reset of any state differ in the host's fields alone, and none of them is a register. -/
theorem hardwareResetValues : Obligations.HardwareResetValues := by
  intro s t reset
  obtain ⟨ts, ready, rfl⟩ : ∃ ts ready, t = { State.reset with tokens := ts, sinkReady := ready } := by
    obtain rfl | rfl := reset
    · exact ⟨[], true, rfl⟩
    · exact ⟨s.tokens, s.sinkReady, pulseReset_eq_reset s⟩
  exact ⟨rfl, rfl, rfl, rfl, rfl, rfl, rfl, rfl, rfl, rfl, rfl, rfl, rfl, rfl, rfl, rfl, rfl, rfl, reset_status⟩

end Sys2Proof.Machine
end
